-- ==== Sys2Proof/Word.lean ====
section
/-! DEFINITION. Word.lean: the bit-vector types of the block and the Colour record (00_scope section 6). -/

namespace Sys2Proof

/-- `u8`: a colour lane, an AP cell, an SRC byte, a palette index. -/
abbrev Byte := BitVec 8

/-- A run length: the `N` field of an index record (R94). -/
abbrev Half := BitVec 16

/-- A 32-bit register or command word (R22, R80). -/
abbrev Word := BitVec 32

/-- Colour: four independent `u8` lanes (R110; 00_scope section 6). One FB cell, or one colour record. -/
structure Colour where
  r : Byte
  g : Byte
  b : Byte
  a : Byte
deriving DecidableEq, Repr, Inhabited

end Sys2Proof
end

