-- ==== Sys2Proof/Syntax.lean ====
section
/-! DEFINITION. Syntax.lean: one constructor per row of spec/opcode_table.json. The first nine are CMD words, the
commands the host writes to offset 0x00 (R80, R99). The last three are the index records that the engine fetches
from SRC (R91, R99). Fields that a row ignores are kept, so that no bit of an encoding is lost. -/

namespace Sys2Proof

/-- An instruction of the block: a command word or an index record (R99). -/
inductive Instr where
  /-- DRAW.NORMAL: START = 1, MODE = 0 (R81, R172). -/
  | drawNormal (zoom : BitVec 3) (remapEn : Bool)
  /-- DRAW.COLOUR_REMAP: START = 1, MODE = 1 (R81, R174). -/
  | drawColourRemap (zoom : BitVec 3) (remapEn : Bool)
  /-- DRAW.CRASH_REMAP: START = 1, MODE = 2 (R81, R176). -/
  | drawCrashRemap (zoom : BitVec 3) (remapEn : Bool)
  /-- DRAW.TRANSPARENT: START = 1, MODE = 3 (R81, R178). -/
  | drawTransparent (zoom : BitVec 3) (remapEn : Bool)
  /-- DRAW.TRANSPARENT_REMAP: START = 1, MODE = 4 (R81, R180). -/
  | drawTransparentRemap (zoom : BitVec 3) (remapEn : Bool)
  /-- DRAW.BLACK_REMAP: START = 1, MODE = 5 (R81, R182). -/
  | drawBlackRemap (zoom : BitVec 3) (remapEn : Bool)
  /-- CLEAR: START = 0, CLEAR = 1; MODE, ZOOM and REMAP_EN are ignored (R204). -/
  | clear (mode : BitVec 3) (zoom : BitVec 3) (remapEn : Bool)
  /-- NOP: START = 0, CLEAR = 0; MODE, ZOOM and REMAP_EN are ignored (R85, R205). -/
  | nop (mode : BitVec 3) (zoom : BitVec 3) (remapEn : Bool)
  /-- ILLEGAL_CMD: any word that R84 calls illegal; the word itself is kept. -/
  | illegalCmd (w : Word)
  /-- SKIP_REC: class 0xFF, run length `n`; `m` is ignored (R92, R93). -/
  | skipRec (m : Byte) (n : Half)
  /-- DRAW_REC: class 0x00, remap index `m`, run length `n` (R92, R93). -/
  | drawRec (m : Byte) (n : Half)
  /-- RESERVED_REC: a class byte of 0x01..0xFE (R92, R226). -/
  | reservedRec (cls : Byte) (m : Byte) (n : Half)
deriving DecidableEq, Repr

end Sys2Proof
end

