-- ==== Sys2Proof/Decode.lean ====
section
/-! DEFINITION. Decode.lean: the decoder of CMD words (R80 to R85) and of index records (R91, R92), total on any word and
on any bytes, then the encoder, written from the same tables of 30_encoding.md. Then `decodeTableWord`, by which the host
asks for the rows of spec/opcode_table.json. -/

namespace Sys2Proof

/-- The two formats of the opcode table (R99). -/
inductive Format where
  /-- A 32-bit word that the host writes to CMD (R80). -/
  | cmd
  /-- A 4-byte index record in SRC (R91). -/
  | indexRec
deriving DecidableEq, Repr

/-- Why bytes are no instruction. -/
inductive DecodeError where
  /-- Fewer than the 4 bytes that every item of the table has (R98). Safe: nothing is decoded. -/
  | truncated
deriving DecidableEq, Repr

/-- The reserved bits of a CMD word: 3:2, 7, 11 and 31:13 (R80). -/
def cmdReservedMask : Word := 0xFFFFE88C#32

/-- START = `w[0]` (R80). -/
def cmdStart (w : Word) : Bool := w.getLsbD 0

/-- CLEAR = `w[1]` (R80). -/
def cmdClear (w : Word) : Bool := w.getLsbD 1

/-- MODE = `w[6:4]` (R80). -/
def cmdMode (w : Word) : BitVec 3 := w.extractLsb' 4 3

/-- ZOOM = `w[10:8]` (R80). -/
def cmdZoom (w : Word) : BitVec 3 := w.extractLsb' 8 3

/-- REMAP_EN = `w[12]` (R80). -/
def cmdRemapEn (w : Word) : Bool := w.getLsbD 12

/-- `Illegal(w)` of R84: (a) a reserved bit is 1; (b) START = 1 and MODE is 6 or 7; (c) START = 1 and CLEAR = 1. -/
def illegalWord (w : Word) : Bool :=
  (w &&& cmdReservedMask != 0#32) ||
  (cmdStart w && decide (6 ≤ (cmdMode w).toNat)) ||
  (cmdStart w && cmdClear w)

/-- A class byte that is neither drawable (0x00) nor skip (0xFF) (R92). -/
def reservedClass (cls : Byte) : Bool := cls != 0x00#8 && cls != 0xFF#8

/-- The DRAW form of a MODE value (R81). MODE 6 and 7 are reserved, and such a word is illegal (R84 b). -/
def decodeDraw (w : Word) : Instr :=
  match (cmdMode w).toNat with
  | 0 => .drawNormal (cmdZoom w) (cmdRemapEn w)
  | 1 => .drawColourRemap (cmdZoom w) (cmdRemapEn w)
  | 2 => .drawCrashRemap (cmdZoom w) (cmdRemapEn w)
  | 3 => .drawTransparent (cmdZoom w) (cmdRemapEn w)
  | 4 => .drawTransparentRemap (cmdZoom w) (cmdRemapEn w)
  | 5 => .drawBlackRemap (cmdZoom w) (cmdRemapEn w)
  | _ => .illegalCmd w

/-- The command a CMD word stands for (R80, R84, R85, R99, R200). Every word is one of the nine CMD rows. -/
def decodeCmd (w : Word) : Instr :=
  if illegalWord w then .illegalCmd w
  else if cmdClear w then .clear (cmdMode w) (cmdZoom w) (cmdRemapEn w)
  else if cmdStart w then decodeDraw w
  else .nop (cmdMode w) (cmdZoom w) (cmdRemapEn w)

/-- The index record of the word `SrcRead(addr, 4)`: m = x[7:0], class = x[15:8], N = x[31:16] (R91, R92). -/
def decodeRec (x : Word) : Instr :=
  let m : Byte := x.extractLsb' 0 8
  let cls : Byte := x.extractLsb' 8 8
  let n : Half := x.extractLsb' 16 16
  if cls = 0xFF#8 then .skipRec m n
  else if cls = 0x00#8 then .drawRec m n
  else .reservedRec cls m n

/-- The instruction a 32-bit word stands for in a format. Every word stands for one (R99: the catch-all rows). -/
def decodeWord : Format → Word → Instr
  | .cmd, w => decodeCmd w
  | .indexRec, x => decodeRec x

/-- Four bytes as one little-endian word (R52). -/
def wordOfBytes (b0 b1 b2 b3 : Byte) : Word := b3 ++ b2 ++ b1 ++ b0

/-- The instruction at the head of a byte list, and the bytes after it; refused by name when fewer than 4 bytes are left.
The bytes are little-endian: R52 for a record; for a CMD word a DESIGN CHOICE (log entry 14), since a host
writes CMD as one 32-bit word (R23) and no byte order of it is stated. -/
def decode (f : Format) : List Byte → Except DecodeError (Instr × List Byte)
  | b0 :: b1 :: b2 :: b3 :: rest => .ok (decodeWord f (wordOfBytes b0 b1 b2 b3), rest)
  | _ => .error .truncated

/-- The format of an instruction's row in the opcode table (R99). -/
def formatOf : Instr → Format
  | .drawNormal _ _ | .drawColourRemap _ _ | .drawCrashRemap _ _ => .cmd
  | .drawTransparent _ _ | .drawTransparentRemap _ _ | .drawBlackRemap _ _ => .cmd
  | .clear _ _ _ | .nop _ _ _ | .illegalCmd _ => .cmd
  | .skipRec _ _ | .drawRec _ _ | .reservedRec _ _ _ => .indexRec

/-- One bit as a 1-bit field. -/
def bit (b : Bool) : BitVec 1 := BitVec.ofBool b

/-- A CMD word from its fields, the reserved bits 0 (R80): bits 31:13, REMAP_EN, 11, ZOOM, 7, MODE, 3:2, CLEAR, START. -/
def encodeCmd (start clr : Bool) (mode zoom : BitVec 3) (remapEn : Bool) : Word :=
  0#19 ++ bit remapEn ++ 0#1 ++ zoom ++ 0#1 ++ mode ++ 0#2 ++ bit clr ++ bit start

/-- An index record from its fields: N, class, m (R91). -/
def encodeRec (cls m : Byte) (n : Half) : Word := n ++ cls ++ m

/-- The word of a well-formed instruction (R80, R91). -/
def encode : Instr → Word
  | .drawNormal z r => encodeCmd true false 0#3 z r
  | .drawColourRemap z r => encodeCmd true false 1#3 z r
  | .drawCrashRemap z r => encodeCmd true false 2#3 z r
  | .drawTransparent z r => encodeCmd true false 3#3 z r
  | .drawTransparentRemap z r => encodeCmd true false 4#3 z r
  | .drawBlackRemap z r => encodeCmd true false 5#3 z r
  | .clear m z r => encodeCmd false true m z r
  | .nop m z r => encodeCmd false false m z r
  | .illegalCmd w => w
  | .skipRec m n => encodeRec 0xFF#8 m n
  | .drawRec m n => encodeRec 0x00#8 m n
  | .reservedRec cls m n => encodeRec cls m n

/-- The bytes of a word as they lie in SRC, lowest address first (R52). -/
def bytesOfWord (w : Word) : List Byte :=
  [w.extractLsb' 0 8, w.extractLsb' 8 8, w.extractLsb' 16 8, w.extractLsb' 24 8]

/-- The format a row of the opcode table is in, by the bits the table fixes for it: the CMD rows fix bits up to 31, the
INDEX_REC rows none above 15, and N above them is an operand (R80, R91, R99). -/
def formatOfBits (nbits : Nat) : Format := if nbits ≤ 16 then .indexRec else .cmd

/-- What the decoder reads from an instruction of the opcode table whose bits are `w`, of which the table gives the
lowest `nbits`, the bits above them 0: its four bytes laid out in order and given to `decode`. -/
def decodeTableWord (nbits w : Nat) : Option Instr :=
  match decode (formatOfBits nbits) (bytesOfWord (BitVec.ofNat 32 (w % 2 ^ nbits))) with
  | .ok (i, _) => some i
  | .error _ => none

end Sys2Proof
end

