-- ==== Sys2Proof/Config.lean ====
section
/-! DEFINITION. Config.lean: the implementation parameters that the spec leaves OPEN (00_scope section 5), as
opaque constants: nothing can be proved of their values but their stated range. `State.reset` takes them into
`State.params`, where the meanings read them (log entry 5). -/

namespace Sys2Proof.Config

/-- `SRC_SIZE - 1`, so that SRC_SIZE is in 1..2^32 (R7). DESIGN CHOICE of form, safe (log entry 5). -/
opaque srcSizePred : Fin (2 ^ 32)

/-- `FB_PIXELS - 1`, so that FB_PIXELS is in 1..2^32 (R7). DESIGN CHOICE of form, safe (log entry 5). -/
opaque fbPixelsPred : Fin (2 ^ 32)

/-- `SRC_SIZE`, the size of SRC in bytes (R7). -/
def srcSize : Nat := srcSizePred.val + 1

/-- `FB_PIXELS`, the number of cells of FB and of AP (R7). -/
def fbPixels : Nat := fbPixelsPred.val + 1

/-- `NZOOM`: the default that 00_scope section 5 gives. DESIGN CHOICE, unsafe for a claim about runs from reset
(log entry 5); the meanings read `State.params`, which may hold any value. -/
def nzoom : Nat := 6

/-- The table of `PAL_LOOKUP` that the palette collaborator supplies (R6; log entry 6). -/
opaque palLookup : List (Nat × Colour)

/-- The table of `PAL_NEAREST` that the palette collaborator supplies (R6; log entry 6). -/
opaque palNearest : List (Nat × Byte)

/-- `REG_BASE`, the platform address of the register window (R60; log entry 18). No rule depends on its value. -/
opaque regBase : Nat

end Sys2Proof.Config
end

