-- ==== Sys2Proof/Machine/State.lean ====
section
/-! DEFINITION. State.lean: all the state the spec gives the block, as plain data (10_state.md, 00_scope section 5), the
moves of the agents around it (70_reset_and_hazards.md R267), the named ways a step can stop, and the state at power-on. -/

namespace Sys2Proof.Machine

/-- The blend modes, in the source's order: MODE 0 to 5 (R81). -/
inductive Mode where
  | normal
  | colourRemap
  | crashRemap
  | transparent
  | transparentRemap
  | blackRemap
deriving DecidableEq, Repr

/-- `eng`: the engine is IDLE or BUSY. STATUS.BUSY = 1 exactly when it is BUSY (10_state section 4). -/
inductive Engine where
  | idle
  | busy
deriving DecidableEq, Repr

/-- The error codes 1 to 10 of 60_exceptions.md section 1. Codes 11 to 15 are never produced (R237). -/
inductive ErrorCode where
  | illegalCmd
  | zoomRange
  | remapMissing
  | dstBounds
  | srcRange
  | streamClass
  | streamZeroRun
  | streamIndexOverrun
  | streamColourOverrun
  | streamAlpha0
deriving DecidableEq, Repr

/-- A decoded clip pixel `Pix[y][x]`: `SKIP`, or `DRAW(s, m)` (R140). -/
inductive Pix where
  | skip
  | draw (s : Colour) (m : Byte)
deriving DecidableEq, Repr

/-- Where the commit step stands in the pseudocode of R141. -/
inductive Phase where
  /-- `repeat ST times`: this many rows are still to be skipped (R145). -/
  | skipRows (left : Nat)
  /-- The headers of row `y` are the next to be read (R146), or the write phase is next when `y` = HEIGHT (R155). -/
  | rowStart
  /-- Row `y` is open: its index records are being fetched (R147, R149). -/
  | records
deriving DecidableEq, Repr

/-- The cursor state of 10_state section 5 (R35), under the spec's names: integers that are never negative. With it the
values decoded so far: `rows`, the finished rows of `Pix`, and `row`, the row being decoded, each in order (R154). -/
structure Walk where
  phase : Phase
  /-- SRC address of the current scanline header in the colour stream. -/
  hc : Nat
  /-- SRC address of the current scanline header in the index stream. -/
  hi : Nat
  /-- First SRC address after the current colour scanline. -/
  endc : Nat
  /-- First SRC address after the current index scanline. -/
  endi : Nat
  /-- SRC address of the colour record at the start of the next index record's run. -/
  pc : Nat
  /-- SRC address of the next index record. -/
  pi : Nat
  /-- Sprite column of the first pixel of the next index record. -/
  col : Nat
  /-- Destination row being decoded. -/
  y : Nat
  rows : List (List Pix)
  row : List Pix
deriving DecidableEq, Repr

/-- The implementation parameters of 00_scope section 5 (R5, R6, R7), which the model takes as arguments: data that no
step of the block changes (log entry 5). The two palette functions are tables (log entry 6). -/
structure Params where
  nzoom : Nat
  srcSize : Nat
  fbPixels : Nat
  palLookup : List (Nat × Colour)
  palNearest : List (Nat × Byte)
deriving DecidableEq, Repr

/-- The stored bits of the read-write registers (R22, R24): CFG[0], the four 16-bit clip registers, and the four 32-bit
registers. -/
structure Regs where
  irqEn : Bool
  skipTop : BitVec 16
  skipLeft : BitVec 16
  width : BitVec 16
  height : BitVec 16
  dstOff : Word
  dstPitch : Word
  spriteBase : Word
  remapBase : Word
deriving DecidableEq, Repr

/-- The stored fields of STATUS (10_state section 2.2). BUSY is `eng`, and PATH_ANIM is `cur_anim` (R34), so neither is
stored twice (log entry 15). -/
structure Status where
  done : Bool
  err : Bool
  dropped : Bool
  errCode : BitVec 4
deriving DecidableEq, Repr

/-- The latched fields of the accepted command: `cur_mode`, `cur_zoom`, `cur_remap_en`, `cur_anim` (R34). -/
structure Latch where
  mode : Mode
  zoom : BitVec 3
  remapEn : Bool
  anim : Bool
deriving DecidableEq, Repr

/-- The width of a host's register access (R23). -/
inductive Access where
  | byte
  | half
  | word
deriving DecidableEq, Repr

/-- What the last read of the host returned (R267 a, c). The model's own field (log entry 10). -/
inductive ReadData where
  | none
  | word (v : Word)
  | byte (v : Byte)
  | colour (c : Colour)
deriving DecidableEq, Repr

/-- One atomic action of R267. Register offsets are in bytes from REG_BASE, inside the window of 0x100 bytes. -/
inductive Action where
  /-- (a) The host reads the register window (R23). -/
  | regRead (off : BitVec 8) (size : Access)
  /-- (b) The host writes the register window; a word at offset 0 is a CMD write (R200). -/
  | regWrite (off : BitVec 8) (size : Access) (v : Word)
  /-- (c) The host reads an SRC byte (20_memory section 1). -/
  | srcRead (addr : Nat)
  /-- (c) The host writes an SRC byte. -/
  | srcWrite (addr : Nat) (v : Byte)
  /-- (c) The host reads an FB cell. -/
  | fbRead (i : Nat)
  /-- (c) The host writes an FB cell. -/
  | fbWrite (i : Nat) (c : Colour)
  /-- (c) The host reads an AP cell. -/
  | apRead (i : Nat)
  /-- (c) The host writes an AP cell. -/
  | apWrite (i : Nat) (v : Byte)
  /-- (d) The environment drives `ap_present_i`. -/
  | setApPresent (v : Bool)
  /-- (d) The environment drives `anim_disable_i`. -/
  | setAnimDisable (v : Bool)
  /-- (d) The environment changes an AP cell. -/
  | envApWrite (i : Nat) (v : Byte)
  /-- The palette collaborator changes its two functions (R257; log entry 7). -/
  | setPalette (lookup : List (Nat × Colour)) (nearest : List (Nat × Byte))
  /-- The environment resizes the planes (R67, R263; log entry 7). -/
  | resize (n : Nat)
  /-- (e) The engine's turn: the commit step, if the engine is BUSY (R266). -/
  | engine
  /-- (f) Reset (R250). -/
  | reset
deriving DecidableEq, Repr

/-- The whole state of the block and of what surrounds it. -/
structure State where
  params : Params
  regs : Regs
  status : Status
  eng : Engine
  latch : Latch
  /-- `ap_present_i` (R32). -/
  apPresent : Bool
  /-- `anim_disable_i` (R32). -/
  animDisable : Bool
  /-- SRC: the listed bytes, by address (R36, R50). -/
  src : List Host.Cell
  /-- FB: the listed Colour cells, by pixel index (R51). -/
  fb : List (Nat × Colour)
  /-- AP: the listed cells, by pixel index (R51). -/
  ap : List Host.Cell
  /-- The commit step in progress; none between commands (R35). -/
  walk : Option Walk
  /-- The model's own field: the moves that the agents around the engine make, in order (R267; log entry 1). -/
  agenda : List Action
  /-- The model's own field: what the host's last read returned (log entry 10). -/
  rdata : ReadData
deriving DecidableEq, Repr

/-- A host access to a place that does not exist (20_memory section 1). Each is raised by a HOST move only: the engine
range-checks what it reads and never reaches a cell outside the planes (R61). -/
inductive Fault where
  /-- Raised by the host's SRC read or write at an address that is not below SRC_SIZE. Safe: the model stops. -/
  | noSuchSrcByte
  /-- Raised by the host's FB or AP access, or the environment's AP write, at an index not below FB_PIXELS. Safe. -/
  | noSuchPixel
  /-- Raised by the host's AP access while no animation plane is attached (`ap_present_i` = 0). Safe. -/
  | noAnimationPlane
deriving DecidableEq, Repr

/-- A move the spec does not give (R262: "A model gives the host no such move while BUSY"). -/
inductive Refusal where
  /-- An instruction with no meaning yet, raised by `exec`. Safe. No arm of this model uses it. -/
  | notModelled (mnemonic : String)
  /-- Raised by an index record given to `exec` while no row is open: only the walk fetches records (R147). Safe. -/
  | recordOutsideRow
  /-- Raised by the host's SRC, FB or AP access while BUSY (R64, R262). Safe: the spec promises nothing there. -/
  | hostMemoryAccessWhileBusy
  /-- Raised by the environment's change of AP's contents, of the plane size or of the palette while BUSY (R257, R263).
  Safe. -/
  | environmentChangeWhileBusy
  /-- Raised by a resize to a size outside 1..2^32, which FB_PIXELS cannot have (R7). Safe. -/
  | sizeOutOfRange
deriving DecidableEq, Repr

/-- The three outcomes of a step of this machine. -/
abbrev Outcome := Host.Outcome State Fault Refusal

/-- Every register 0 (R38, R250). -/
def Regs.zero : Regs :=
  { irqEn := false, skipTop := 0#16, skipLeft := 0#16, width := 0#16, height := 0#16,
    dstOff := 0#32, dstPitch := 0#32, spriteBase := 0#32, remapBase := 0#32 }

/-- STATUS = 0x0000_0000 (R250). -/
def Status.zero : Status := { done := false, err := false, dropped := false, errCode := 0#4 }

/-- `cur_mode`, `cur_zoom`, `cur_remap_en` and `cur_anim` 0 (R250). -/
def Latch.zero : Latch := { mode := .normal, zoom := 0#3, remapEn := false, anim := false }

/-- The parameters the machine is built with (log entry 5). -/
def Params.ofConfig : Params :=
  { nzoom := Config.nzoom, srcSize := Config.srcSize, fbPixels := Config.fbPixels,
    palLookup := Config.palLookup, palNearest := Config.palNearest }

/-- The machine right after power-on reset (R38, R250): every register, STATUS, the engine and the latched fields at the
spec's reset values, and no command running (R35). The memories list nothing (R251; log entry 3), the two inputs are 0
(DESIGN CHOICE, log entry 4), the agenda is empty (log entry 1) and nothing has been read (log entry 10). -/
def State.reset : State :=
  { params := Params.ofConfig, regs := Regs.zero, status := Status.zero, eng := .idle, latch := Latch.zero,
    apPresent := false, animDisable := false, src := [], fb := [], ap := [], walk := none, agenda := [],
    rdata := .none }

end Sys2Proof.Machine
end

