-- ==== Sys2Proof/Machine/Flags.lean ====
section
/-! DEFINITION. Flags.lean: the block's only flags are the fields of STATUS (R27, R37), and its only output derived from
them is `irq_o` (R234). No colour or address operation sets a flag. -/

namespace Sys2Proof.Machine

/-- STATUS.BUSY: 1 exactly when `eng` = BUSY (10_state section 4). -/
def State.busy (s : State) : Bool := decide (s.eng = .busy)

/-- The STATUS register: BUSY [0], DONE [1], ERR [2], DROPPED [3], PATH_ANIM [4] (which is `cur_anim`, R34),
ERR_CODE [11:8]; every other bit reads 0 (10_state section 2.2, R27). -/
def State.statusWord (s : State) : Word :=
  0#20 ++ s.status.errCode ++ 0#3 ++ bit s.latch.anim ++ bit s.status.dropped ++ bit s.status.err
    ++ bit s.status.done ++ bit s.busy

/-- `irq_o = CFG.IRQ_EN AND (STATUS.DONE OR STATUS.ERR)` (R234). -/
def State.irq (s : State) : Bool := s.regs.irqEn && (s.status.done || s.status.err)

/-- The code of an error (60_exceptions section 1). -/
def ErrorCode.code : ErrorCode → BitVec 4
  | .illegalCmd => 1#4
  | .zoomRange => 2#4
  | .remapMissing => 3#4
  | .dstBounds => 4#4
  | .srcRange => 5#4
  | .streamClass => 6#4
  | .streamZeroRun => 7#4
  | .streamIndexOverrun => 8#4
  | .streamColourOverrun => 9#4
  | .streamAlpha0 => 10#4

end Sys2Proof.Machine
end

