-- ==== Sys2Proof/Machine/Ops.lean ====
section
/-! DEFINITION. Ops.lean: the named operations over the memories, the register window and the engine: reading and
writing a cell, accepting and ending a command, taking an error and returning from one, and reset. -/

namespace Sys2Proof.Machine

/-! ## Sparse memories -/

/-- What an SRC byte or an AP cell that is not listed reads as. R251 leaves it unspecified: DESIGN CHOICE 0, unsafe for a
claim that rests on it (log entry 3). -/
def unlistedByte : Byte := 0#8

/-- What an FB cell that is not listed reads as. DESIGN CHOICE, unsafe for a claim that rests on it (log entry 3). -/
def unlistedColour : Colour := { r := 0#8, g := 0#8, b := 0#8, a := 0#8 }

/-- Read index `i` of a list sorted by index, where an unlisted index reads `d`. -/
def cellRead {α : Type} (d : α) : List (Nat × α) → Nat → α
  | [], _ => d
  | (j, v) :: rest, i => if i = j then v else if i < j then d else cellRead d rest i

/-- Write index `i`, keeping the list sorted and no entry equal to `d`. -/
def cellWrite {α : Type} [DecidableEq α] (d : α) : List (Nat × α) → Nat → α → List (Nat × α)
  | [], i, v => if v = d then [] else [(i, v)]
  | (j, u) :: rest, i, v =>
    if i < j then (if v = d then (j, u) :: rest else (i, v) :: (j, u) :: rest)
    else if i = j then (if v = d then rest else (i, v) :: rest)
    else (j, u) :: cellWrite d rest i v

/-- The canonical form: indices at least `lo`, strictly rising and below `n`, and no entry equal to `d`. -/
def cellsWf {α : Type} [DecidableEq α] (d : α) (n : Nat) : Nat → List (Nat × α) → Bool
  | _, [] => true
  | lo, (j, v) :: rest => decide (lo ≤ j) && decide (j < n) && decide (v ≠ d) && cellsWf d n (j + 1) rest

/-- The memories have their canonical form, with every entry at an index that exists (R50). -/
def State.memWf (s : State) : Bool :=
  cellsWf unlistedByte s.params.srcSize 0 s.src && cellsWf unlistedColour s.params.fbPixels 0 s.fb
    && cellsWf unlistedByte s.params.fbPixels 0 s.ap

/-- `SRC[addr]` (R50). -/
def State.srcAt (s : State) (addr : Nat) : Byte := cellRead unlistedByte s.src addr

/-- `SRC[addr] <- v`: a host write only, the block never writes SRC (R36). -/
def State.setSrc (s : State) (addr : Nat) (v : Byte) : State :=
  { s with src := cellWrite unlistedByte s.src addr v }

/-- `FB[i]` (00_scope section 6). -/
def State.fbAt (s : State) (i : Nat) : Colour := cellRead unlistedColour s.fb i

/-- `FB[i] <- c`: all four lanes at once (R57). -/
def State.setFb (s : State) (i : Nat) (c : Colour) : State :=
  { s with fb := cellWrite unlistedColour s.fb i c }

/-- `AP[i]` (00_scope section 6). -/
def State.apAt (s : State) (i : Nat) : Byte := cellRead unlistedByte s.ap i

/-- `AP[i] <- v` (R57). -/
def State.setAp (s : State) (i : Nat) (v : Byte) : State :=
  { s with ap := cellWrite unlistedByte s.ap i v }

/-! ## The end of a command -/

/-- `raise Error(code)` in the commit step (R232): the shared operation that takes an error. The DRAW ends; nothing else
is saved, and there is no vector or mode change. The cursor state has no value between commands (R35). -/
def State.raiseError (s : State) (e : ErrorCode) : State :=
  { s with eng := .idle, walk := none,
           status := { s.status with done := false, err := true, errCode := e.code } }

/-- `RaiseImmediate(ILLEGAL_CMD)` (R221): `eng` stays IDLE and no command starts. -/
def State.raiseImmediate (s : State) : State :=
  { s with status := { s.status with done := false, err := true, errCode := ErrorCode.illegalCmd.code } }

/-- `complete()` (R202): a DRAW ends without error. -/
def State.complete (s : State) : State :=
  { s with eng := .idle, walk := none, status := { s.status with done := true } }

/-- `Clear()` (R204), the block's return from error (R236). -/
def State.clearStatus (s : State) : State :=
  { s with status := { done := false, err := false, dropped := false, errCode := 0#4 } }

/-- A dropped CMD write (R203). -/
def State.markDropped (s : State) : State :=
  { s with status := { s.status with dropped := true } }

/-- `StartDraw(w)` (R201): the command is accepted. It samples the two inputs (R32, R130). -/
def State.startDraw (s : State) (mode : Mode) (zoom : BitVec 3) (remapEn : Bool) : State :=
  { s with eng := .busy,
           latch := { mode := mode, zoom := zoom, remapEn := remapEn, anim := s.apPresent && !s.animDisable },
           status := { s.status with done := false, err := false, errCode := 0#4 } }

/-- The walk goes on with new cursors (R141). -/
def State.setWalk (s : State) (w : Walk) : State := { s with walk := some w }

/-- Reset (R250): registers, STATUS and engine state 0, and a running command is abandoned (R252). SRC, FB and AP keep
their values (R251), and the inputs are not the block's to reset (R254). -/
def State.applyReset (s : State) : State :=
  { s with regs := Regs.zero, status := Status.zero, eng := .idle, latch := Latch.zero, walk := none }

/-! ## The register window -/

/-- The registers of the window (R22). -/
inductive RegName where
  | cmd
  | status
  | cfg
  | skipTop
  | skipLeft
  | width
  | height
  | dstOff
  | dstPitch
  | spriteBase
  | remapBase
deriving DecidableEq, Repr

/-- The offset of a register in bytes from REG_BASE (R22). -/
def RegName.offset : RegName → BitVec 8
  | .cmd => 0x00#8
  | .status => 0x04#8
  | .cfg => 0x08#8
  | .skipTop => 0x0C#8
  | .skipLeft => 0x10#8
  | .width => 0x14#8
  | .height => 0x18#8
  | .dstOff => 0x1C#8
  | .dstPitch => 0x20#8
  | .spriteBase => 0x24#8
  | .remapBase => 0x28#8

/-- The register at an offset: none at a reserved offset (0x2C..0xFC) or one that is not a multiple of 4 (R22, R23). -/
def regAt (off : BitVec 8) : Option RegName :=
  match off.toNat with
  | 0x00 => some .cmd
  | 0x04 => some .status
  | 0x08 => some .cfg
  | 0x0C => some .skipTop
  | 0x10 => some .skipLeft
  | 0x14 => some .width
  | 0x18 => some .height
  | 0x1C => some .dstOff
  | 0x20 => some .dstPitch
  | 0x24 => some .spriteBase
  | 0x28 => some .remapBase
  | _ => none

/-- The register a host access reaches: only an aligned 32-bit access at a register's offset reaches one (R23). -/
def regOfAccess (off : BitVec 8) (size : Access) : Option RegName :=
  match size with
  | .word => regAt off
  | .half => none
  | .byte => none

/-- `reg[NAME]` as a host reads it: unused bits are 0 (R24, R28), CMD has no storage and reads 0 (R26). -/
def State.regValue (s : State) : RegName → Word
  | .cmd => 0#32
  | .status => s.statusWord
  | .cfg => (bit s.regs.irqEn).zeroExtend 32
  | .skipTop => s.regs.skipTop.zeroExtend 32
  | .skipLeft => s.regs.skipLeft.zeroExtend 32
  | .width => s.regs.width.zeroExtend 32
  | .height => s.regs.height.zeroExtend 32
  | .dstOff => s.regs.dstOff
  | .dstPitch => s.regs.dstPitch
  | .spriteBase => s.regs.spriteBase
  | .remapBase => s.regs.remapBase

/-- `reg[NAME] <- v` for the registers that store something: `v[15:0]` in the clip registers, `v[0]` in CFG, all 32 bits
in the other four (R24). STATUS is read-only (R27), and CMD has no storage (R26). -/
def Regs.write (r : Regs) (v : Word) : RegName → Regs
  | .cmd => r
  | .status => r
  | .cfg => { r with irqEn := v.getLsbD 0 }
  | .skipTop => { r with skipTop := v.extractLsb' 0 16 }
  | .skipLeft => { r with skipLeft := v.extractLsb' 0 16 }
  | .width => { r with width := v.extractLsb' 0 16 }
  | .height => { r with height := v.extractLsb' 0 16 }
  | .dstOff => { r with dstOff := v }
  | .dstPitch => { r with dstPitch := v }
  | .spriteBase => { r with spriteBase := v }
  | .remapBase => { r with remapBase := v }

/-- What a host register read returns: 0 for an access that reaches no register (R23). It has no side effect (R206). -/
def State.regRead (s : State) (off : BitVec 8) (size : Access) : Word :=
  match regOfAccess off size with
  | some name => s.regValue name
  | none => 0#32

/-- A host register write other than to CMD: ignored when it reaches no register (R23), and while BUSY (R25). -/
def State.regWrite (s : State) (off : BitVec 8) (size : Access) (v : Word) : State :=
  match regOfAccess off size with
  | some name => if s.busy then s else { s with regs := s.regs.write v name }
  | none => s

/-! ## The platform's view of the window (R60, R240; log entry 18) -/

/-- The platform address of a window offset. -/
def regAddress (off : BitVec 8) : Nat := Config.regBase + off.toNat

/-- The window offset of a platform address: none outside the 0x100 bytes at REG_BASE. -/
def regOffset (addr : Nat) : Option (BitVec 8) :=
  if Config.regBase ≤ addr ∧ addr < Config.regBase + 0x100 then some (BitVec.ofNat 8 (addr - Config.regBase)) else none

end Sys2Proof.Machine
end

