-- ==== Sys2Proof/Machine/Control.lean ====
section
/-! DEFINITION. Control.lean: the command words that start no DRAW (44_control_commands.md sections 1, 3 and 4). -/

namespace Sys2Proof.Machine

/-- CLEAR (R204): the same while IDLE and while BUSY (R200). Its other fields are ignored (R84). -/
def execClear (_mode _zoom : BitVec 3) (_remapEn : Bool) (s : State) : Outcome := .next s.clearStatus

/-- NOP (R205): changes no state, whether IDLE or BUSY. Its other fields are ignored (R84). -/
def execNop (_mode _zoom : BitVec 3) (_remapEn : Bool) (s : State) : Outcome := .next s

/-- ILLEGAL_CMD: raises ILLEGAL_CMD while IDLE (R221), and is dropped while BUSY (R203). -/
def execIllegalCmd (_w : Word) (s : State) : Outcome :=
  .next (if s.busy then s.markDropped else s.raiseImmediate)

end Sys2Proof.Machine
end

