-- ==== Sys2Proof/Machine/Draw.lean ====
section
/-! DEFINITION. Draw.lean: the six DRAW forms as command words (R200, R201, R203). A DRAW is accepted while IDLE and
dropped while BUSY; what it then draws is the engine's commit step (Engine.lean) with the mode's pixel rule
(Compositor.lean). -/

namespace Sys2Proof.Machine

/-- A CMD write with START = 1: dropped while BUSY (R203), accepted while IDLE (R201), in the order of R200. -/
def State.startOrDrop (s : State) (mode : Mode) (zoom : BitVec 3) (remapEn : Bool) : State :=
  if s.busy then s.markDropped else s.startDraw mode zoom remapEn

/-- DRAW.NORMAL (R201, R172). -/
def execDrawNormal (zoom : BitVec 3) (remapEn : Bool) (s : State) : Outcome :=
  .next (s.startOrDrop .normal zoom remapEn)

/-- DRAW.COLOUR_REMAP (R201, R174). -/
def execDrawColourRemap (zoom : BitVec 3) (remapEn : Bool) (s : State) : Outcome :=
  .next (s.startOrDrop .colourRemap zoom remapEn)

/-- DRAW.CRASH_REMAP (R201, R176). -/
def execDrawCrashRemap (zoom : BitVec 3) (remapEn : Bool) (s : State) : Outcome :=
  .next (s.startOrDrop .crashRemap zoom remapEn)

/-- DRAW.TRANSPARENT (R201, R178). -/
def execDrawTransparent (zoom : BitVec 3) (remapEn : Bool) (s : State) : Outcome :=
  .next (s.startOrDrop .transparent zoom remapEn)

/-- DRAW.TRANSPARENT_REMAP (R201, R180). -/
def execDrawTransparentRemap (zoom : BitVec 3) (remapEn : Bool) (s : State) : Outcome :=
  .next (s.startOrDrop .transparentRemap zoom remapEn)

/-- DRAW.BLACK_REMAP (R201, R182). -/
def execDrawBlackRemap (zoom : BitVec 3) (remapEn : Bool) (s : State) : Outcome :=
  .next (s.startOrDrop .blackRemap zoom remapEn)

end Sys2Proof.Machine
end

