-- ==== Sys2Proof/Machine/Operands.lean ====
section
/-! DEFINITION. Operands.lean: what the rules read: SRC fields with their range check (R52 to R61), the clip rectangle
and its destination cells (R29, R30), the remap table (R97) and the palette functions (R6). Addresses are unbounded
integers and never wrap (R8, R61). -/

namespace Sys2Proof.Machine

/-- `need(addr, n)` holds: every byte `addr .. addr+n-1` is in 0..SRC_SIZE-1 (R61, R142). -/
def State.inSrc (s : State) (addr n : Nat) : Bool := decide (addr + n ≤ s.params.srcSize)

/-- `SrcRead(addr, n)`: the n-byte little-endian number (R52). -/
def State.srcRead (s : State) (addr : Nat) : Nat → Nat
  | 0 => 0
  | n + 1 => (s.srcAt addr).toNat + 256 * s.srcRead (addr + 1) n

/-- `SrcColour(addr)`: the lanes r, g, b, a at +0, +1, +2, +3 (R53). -/
def State.srcColour (s : State) (addr : Nat) : Colour :=
  { r := s.srcAt addr, g := s.srcAt (addr + 1), b := s.srcAt (addr + 2), a := s.srcAt (addr + 3) }

/-- The `n` bytes of SRC from `addr` on, as the decoder takes them. -/
def State.srcBytes (s : State) (addr : Nat) : Nat → List Byte
  | 0 => []
  | n + 1 => s.srcAt addr :: s.srcBytes (addr + 1) n

/-- `lim = SKIP_LEFT + WIDTH`: the first sprite column right of the clip (R141, R151). -/
def State.lim (s : State) : Nat := s.regs.skipLeft.toNat + s.regs.width.toNat

/-- The cell of clip pixel (y, x): `DST_OFF + y*DST_PITCH + x`, in FB and in AP (R30, R132). -/
def State.clipCell (s : State) (y x : Nat) : Nat :=
  s.regs.dstOff.toNat + y * s.regs.dstPitch.toNat + x

/-- The clip is empty: WIDTH = 0 or HEIGHT = 0 (R143). -/
def State.emptyClip (s : State) : Bool := decide (s.regs.width = 0#16) || decide (s.regs.height = 0#16)

/-- The destination rectangle is legal: (a) one row, or rows that do not overlap; (b) the last cell is in FB (R143,
R224). -/
def State.dstLegal (s : State) : Bool :=
  (decide (s.regs.height.toNat ≤ 1) || decide (s.regs.width.toNat ≤ s.regs.dstPitch.toNat)) &&
  decide (s.regs.dstOff.toNat + (s.regs.height.toNat - 1) * s.regs.dstPitch.toNat + s.regs.width.toNat
    ≤ s.params.fbPixels)

/-- The modes that use the remap table: 1, 2 and 4 (R81, R83). -/
def Mode.usesRemap : Mode → Bool
  | .normal => false
  | .colourRemap => true
  | .crashRemap => true
  | .transparent => false
  | .transparentRemap => true
  | .blackRemap => false

/-- `REMAP(i) = SrcRead(REMAP_BASE + i, 1)` (R97). -/
def State.remap (s : State) (i : Byte) : Byte := s.srcAt (s.regs.remapBase.toNat + i.toNat)

/-- A Colour as an index into the table of `PAL_NEAREST`: its four bytes as one little-endian number (log entry 6). -/
def Colour.key (c : Colour) : Nat := c.r.toNat + 256 * c.g.toNat + 65536 * c.b.toNat + 16777216 * c.a.toNat

/-- `PAL_LOOKUP(i)`: total, and a function of its argument only (R6; log entry 6). -/
def State.palLookup (s : State) (i : Byte) : Colour := (s.params.palLookup.lookup i.toNat).getD unlistedColour

/-- `PAL_NEAREST(c)`: total, and a function of its argument only (R6; log entry 6). -/
def State.palNearest (s : State) (c : Colour) : Byte := (s.params.palNearest.lookup (Colour.key c)).getD unlistedByte

end Sys2Proof.Machine
end

