-- ==== Sys2Proof/Machine/Records.lean ====
section
/-! DEFINITION. Records.lean: what the engine does with one fetched index record of an open row (R147, R148, R150, R151).
The record is clipped as one run, which R157 allows in place of R141's column-at-a-time loop (log entry 17); the loop
itself is DrawSpec.lean. -/

namespace Sys2Proof.Machine

/-- The walk with an open row, if there is one. -/
def State.openRow (s : State) : Option Walk :=
  match s.walk with
  | some w => if w.phase = .records then some w else none
  | none => none

/-- What a record does, given the open row it belongs to. Outside a row the engine fetches no record (R147), and the
model refuses by name (log entry 12). -/
def State.onOpenRow (s : State) (f : Walk → State) : Outcome :=
  match s.openRow with
  | some w => .next (f w)
  | none => .refused .recordOutsideRow

/-- The first pixel of the next run that is not left of SKIP_LEFT (R150). -/
def State.visibleFrom (s : State) (w : Walk) : Nat := s.regs.skipLeft.toNat - w.col

/-- How many pixels of the next run of length `n` are visible: from `visibleFrom` to the run's end or to `lim`, whichever
comes first (R150, R151). -/
def State.visibleCount (s : State) (w : Walk) (n : Half) : Nat :=
  min n.toNat (s.lim - w.col) - s.visibleFrom w

/-- Pixel `k` of a drawable run: its colour record is at `pc + 4*k`. The checks are in R231's order (R148). -/
def State.drawnPixel (s : State) (w : Walk) (m : Byte) (k : Nat) : Except ErrorCode Pix :=
  if w.endc < w.pc + 4 * k + 4 then .error .streamColourOverrun
  else if !s.inSrc (w.pc + 4 * k) 4 then .error .srcRange
  else if (s.srcColour (w.pc + 4 * k)).a = 0#8 then .error .streamAlpha0
  else .ok (.draw (s.srcColour (w.pc + 4 * k)) m)

/-- The `count` pixels of a drawable run from pixel `k` on, in column order; the first failing check is the error (R231). -/
def State.drawnPixels (s : State) (w : Walk) (m : Byte) : Nat → Nat → Except ErrorCode (List Pix)
  | 0, _ => .ok []
  | count + 1, k =>
    match s.drawnPixel w m k with
    | .error e => .error e
    | .ok p =>
      match s.drawnPixels w m count (k + 1) with
      | .error e => .error e
      | .ok ps => .ok (p :: ps)

/-- After a record the row has its pixels, and `col` is advanced by N (R148). -/
def Walk.cover (w : Walk) (n : Half) (ps : List Pix) : Walk :=
  { w with row := w.row ++ ps, col := w.col + n.toNat }

/-- SKIP_REC: SKIP for each visible column; no colour record is consumed (R93, R148). N = 0 is an error (R94, R227). -/
def execSkipRec (_m : Byte) (n : Half) (s : State) : Outcome :=
  s.onOpenRow fun w =>
    if n = 0#16 then s.raiseError .streamZeroRun
    else s.setWalk (w.cover n (List.replicate (s.visibleCount w n) .skip))

/-- DRAW_REC: each visible column gets its colour record and `m`, and `pc` advances by 4*N whether or not the records
were read (R93, R148). N = 0 is an error (R94, R227). -/
def execDrawRec (m : Byte) (n : Half) (s : State) : Outcome :=
  s.onOpenRow fun w =>
    if n = 0#16 then s.raiseError .streamZeroRun
    else
      match s.drawnPixels w m (s.visibleCount w n) (s.visibleFrom w) with
      | .error e => s.raiseError e
      | .ok ps => s.setWalk (Walk.cover { w with pc := w.pc + 4 * n.toNat } n ps)

/-- RESERVED_REC: the class check comes before the length check, so N is not looked at (R147, R226). -/
def execReservedRec (_cls _m : Byte) (_n : Half) (s : State) : Outcome :=
  s.onOpenRow fun _ => s.raiseError .streamClass

end Sys2Proof.Machine
end

