-- ==== Sys2Proof/Machine/Dispatch.lean ====
section
/-! DEFINITION. Dispatch.lean: one arm per instruction of the opcode table. -/

namespace Sys2Proof.Machine

def exec (i : Instr) (s : State) : Host.Outcome State Fault Refusal :=
  match i with
  | .drawNormal zoom remapEn => Sys2Proof.Machine.execDrawNormal zoom remapEn s
  | .drawColourRemap zoom remapEn => Sys2Proof.Machine.execDrawColourRemap zoom remapEn s
  | .drawCrashRemap zoom remapEn => Sys2Proof.Machine.execDrawCrashRemap zoom remapEn s
  | .drawTransparent zoom remapEn => Sys2Proof.Machine.execDrawTransparent zoom remapEn s
  | .drawTransparentRemap zoom remapEn => Sys2Proof.Machine.execDrawTransparentRemap zoom remapEn s
  | .drawBlackRemap zoom remapEn => Sys2Proof.Machine.execDrawBlackRemap zoom remapEn s
  | .clear mode zoom remapEn => Sys2Proof.Machine.execClear mode zoom remapEn s
  | .nop mode zoom remapEn => Sys2Proof.Machine.execNop mode zoom remapEn s
  | .illegalCmd w => Sys2Proof.Machine.execIllegalCmd w s
  | .skipRec m n => Sys2Proof.Machine.execSkipRec m n s
  | .drawRec m n => Sys2Proof.Machine.execDrawRec m n s
  | .reservedRec cls m n => Sys2Proof.Machine.execReservedRec cls m n s

end Sys2Proof.Machine
end

