-- ==== Sys2Proof/Machine/Blend.lean ====
section
/-! DEFINITION. Blend.lean: the pixel_blend_unit (40_pixel_blend.md). Every operation is exact in the integers and its
result narrowed once, at the end; no result is out of 0..255 (R118). The formulas are the rules' own; the spec marks
those of R111, R113, R114 and R115 as not from its source (log entry 16). -/

namespace Sys2Proof.Machine

/-- `Brightness(c)` (R111). -/
def brightness (c : Colour) : Byte :=
  BitVec.ofNat 8 ((19595 * c.r.toNat + 38470 * c.g.toNat + 7471 * c.b.toNat) / 65536)

/-- `Grey(y) = (y, y, y, 255)` (R112). -/
def grey (y : Byte) : Colour := { r := y, g := y, b := y, a := 255#8 }

/-- The value `d` of `Darken(c)` (R113). -/
def darkness (c : Colour) : Byte :=
  BitVec.ofNat 8 ((13063 * c.r.toNat + 25647 * c.g.toNat + 4981 * c.b.toNat) / 65536)

/-- `Darken(c) = (d, d, d, c.a)` (R113). -/
def darken (c : Colour) : Colour := { r := darkness c, g := darkness c, b := darkness c, a := c.a }

/-- One lane of `Compose`: `b + tdiv((s - b) * α, 256)`, with `tdiv` truncating toward zero (R114). -/
def composeLane (s alpha b : Byte) : Byte :=
  BitVec.ofInt 8 ((b.toNat : Int) + Int.tdiv (((s.toNat : Int) - (b.toNat : Int)) * (alpha.toNat : Int)) 256)

/-- `Compose(s, α, b)`: the alpha used is the argument, and the result's alpha is 255 (R114). -/
def compose (s : Colour) (alpha : Byte) (b : Colour) : Colour :=
  { r := composeLane s.r alpha b.r, g := composeLane s.g alpha b.g, b := composeLane s.b alpha b.b, a := 255#8 }

/-- One lane of `MakeTransparent`: `fdiv(c * nom, den)` (R115). -/
def scaleLane (c : Byte) (nom den : Nat) : Byte := BitVec.ofNat 8 (c.toNat * nom / den)

/-- `MakeTransparent(c, nom, den)`: the result's alpha is 255 (R115). -/
def makeTransparent (c : Colour) (nom den : Nat) : Colour :=
  { r := scaleLane c.r nom den, g := scaleLane c.g nom den, b := scaleLane c.b nom den, a := 255#8 }

/-- `BLACK = (0, 0, 0, 255)` (R117). -/
def black : Colour := { r := 0#8, g := 0#8, b := 0#8, a := 255#8 }

/-- `Bg(p)`: on the animated path a cell with a nonzero animation index counts as its brightness-only grey (R116). -/
def State.bg (s : State) (anim : Bool) (p : Nat) : Colour :=
  if anim && decide (s.apAt p ≠ 0#8) then grey (brightness (s.fbAt p)) else s.fbAt p

end Sys2Proof.Machine
end

