-- ==== Sys2Proof/Machine/Compositor.lean ====
section
/-! DEFINITION. Compositor.lean: the framebuffer_compositor, the pixel rule of each blend mode on both paths
(43_draw_modes.md), and the write phase of a DRAW (R155). No pixel rule raises an error or writes STATUS (R171). -/

namespace Sys2Proof.Machine

/-- `FB[p] <- c`, and on the animated path `AP[p] <- v`: on the RGB-only path AP is never written (R131, D43). -/
def State.putPixel (s : State) (anim : Bool) (p : Nat) (c : Colour) (v : Byte) : State :=
  if anim then (s.setFb p c).setAp p v else s.setFb p c

/-- The pixel is opaque: α = 255 (R170). Its colour record has α in 1..255 (R148), so it is else partial. -/
def opaquePixel (c : Colour) : Bool := decide (c.a = 255#8)

/-- Normal (R172, R173). -/
def pixelNormal (anim : Bool) (p : Nat) (c : Colour) (m : Byte) (s : State) : State :=
  if opaquePixel c then s.putPixel anim p c m
  else s.putPixel anim p (compose c c.a (s.bg anim p)) 0#8

/-- A literal draw of colour `lit`, for a record `c` with remap index 0 (R174, R176). -/
def pixelLiteral (anim : Bool) (p : Nat) (c lit : Colour) (s : State) : State :=
  if opaquePixel c then s.putPixel anim p lit 0#8
  else s.putPixel anim p (compose lit c.a (s.bg anim p)) 0#8

/-- A remapped draw, for a remap index that is not 0: a result of 0 suppresses the pixel (R174). -/
def pixelRemapped (anim : Bool) (p : Nat) (c : Colour) (m : Byte) (s : State) : State :=
  if s.remap m = 0#8 then s
  else if opaquePixel c then s.putPixel anim p (s.palLookup (s.remap m)) (s.remap m)
  else s.putPixel anim p (compose (s.palLookup (s.remap m)) c.a (s.bg anim p)) 0#8

/-- ColourRemap (R174, R175). -/
def pixelColourRemap (anim : Bool) (p : Nat) (c : Colour) (m : Byte) (s : State) : State :=
  if m = 0#8 then pixelLiteral anim p c c s else pixelRemapped anim p c m s

/-- CrashRemap: as ColourRemap, but the literal colour is darkened (R176, R177). -/
def pixelCrashRemap (anim : Bool) (p : Nat) (c : Colour) (m : Byte) (s : State) : State :=
  if m = 0#8 then pixelLiteral anim p c (darken c) s else pixelRemapped anim p c m s

/-- Transparent: the background is scaled by 3/4, or by (1024 - α)/1024; the source's colour is not used (R178, R179). -/
def pixelTransparent (anim : Bool) (p : Nat) (c : Colour) (s : State) : State :=
  if opaquePixel c then s.putPixel anim p (makeTransparent (s.bg anim p) 3 4) 0#8
  else s.putPixel anim p (makeTransparent (s.bg anim p) (1024 - c.a.toNat) 1024) 0#8

/-- TransparentRemap: on the animated path AP gets the remapped index and FB is not written (R180); on the RGB-only path
FB gets that index's palette colour (R181). -/
def pixelTransparentRemap (anim : Bool) (p : Nat) (s : State) : State :=
  if anim then
    (if s.apAt p ≠ 0#8 then s.setAp p (s.remap (s.apAt p)) else s.setAp p (s.remap (s.palNearest (s.fbAt p))))
  else s.setFb p (s.palLookup (s.remap (s.palNearest (s.fbAt p))))

/-- BlackRemap (R182, R183). -/
def pixelBlackRemap (anim : Bool) (p : Nat) (s : State) : State := s.putPixel anim p black 0#8

/-- `PixelRule(mode, anim, p, s, m)` for a pixel `DRAW(c, m)` (R170). -/
def pixelRule (mode : Mode) (anim : Bool) (p : Nat) (c : Colour) (m : Byte) (s : State) : State :=
  match mode with
  | .normal => pixelNormal anim p c m s
  | .colourRemap => pixelColourRemap anim p c m s
  | .crashRemap => pixelCrashRemap anim p c m s
  | .transparent => pixelTransparent anim p c s
  | .transparentRemap => pixelTransparentRemap anim p s
  | .blackRemap => pixelBlackRemap anim p s

/-- `Pix[y][x]` of the decoded rows (R140). -/
def pixAt (rows : List (List Pix)) (y x : Nat) : Option Pix := (rows[y]?).bind fun row => row[x]?

/-- One clip pixel of the write phase: a SKIP pixel makes no access to either plane (R155). -/
def writeClipPixel (rows : List (List Pix)) (y x : Nat) (s : State) : State :=
  match pixAt rows y x with
  | some (.draw c m) => pixelRule s.latch.mode s.latch.anim (s.clipCell y x) c m s
  | some .skip => s
  | none => s

/-- The clip pixels of row `y` for `x` from 0 to `n - 1` (R155). -/
def writeRow (rows : List (List Pix)) (y : Nat) : Nat → State → State
  | 0, s => s
  | n + 1, s => writeClipPixel rows y n (writeRow rows y n s)

/-- The rows `y` from 0 to `n - 1` of a clip `width` columns wide, in row-major order (R155). -/
def writeRows (rows : List (List Pix)) (width : Nat) : Nat → State → State
  | 0, s => s
  | n + 1, s => writeRow rows n width (writeRows rows width n s)

/-- The write phase of the commit step (R141, R155). -/
def State.writePhase (s : State) (rows : List (List Pix)) : State :=
  writeRows rows s.regs.width.toNat s.regs.height.toNat s

end Sys2Proof.Machine
end

