-- ==== Sys2Proof/Machine/Engine.lean ====
section
/-! DEFINITION. Engine.lean: the engine's commit step (R141), one part of its pseudocode after another: the parameter
checks, the offset table, the skipped rows, the rows' headers, the fetch of an index record, and the write phase. The
parts run with no other agent's action between them (R141, R267; log entry 2). -/

namespace Sys2Proof.Machine

/-- What the next part of a step is: to run a decoded instruction at a state, or a step that is already settled. -/
inductive Event where
  | run (i : Instr) (s : State)
  | settled (o : Outcome)

/-- The offset-table entry of the command: `T = SPRITE_BASE + 8*cur_zoom` (R86, R144). -/
def State.tableEntry (s : State) : Nat := s.regs.spriteBase.toNat + 8 * s.latch.zoom.toNat

/-- `DATA = SPRITE_BASE + 8*NZOOM` (R86). -/
def State.dataArea (s : State) : Nat := s.regs.spriteBase.toNat + 8 * s.params.nzoom

/-- The walk right after the offset-table entry is read (R144). A cursor that has no value yet is 0. -/
def State.startWalk (s : State) : Walk :=
  { phase := .skipRows s.regs.skipTop.toNat,
    hc := s.dataArea + s.srcRead s.tableEntry 4,
    hi := s.dataArea + s.srcRead (s.tableEntry + 4) 4,
    endc := 0, endi := 0, pc := 0, pi := 0, col := 0, y := 0, rows := [], row := [] }

/-- The start of the commit step: the parameter checks in R231's order (R143), then the offset-table entry (R144). -/
def State.beginCommit (s : State) : State :=
  if s.params.nzoom ≤ s.latch.zoom.toNat then s.raiseError .zoomRange
  else if s.latch.mode.usesRemap && !s.latch.remapEn then s.raiseError .remapMissing
  else if s.emptyClip then s.complete
  else if !s.dstLegal then s.raiseError .dstBounds
  else if s.latch.mode.usesRemap && !s.inSrc s.regs.remapBase.toNat 256 then s.raiseError .srcRange
  else if !s.inSrc s.tableEntry 8 then s.raiseError .srcRange
  else s.setWalk s.startWalk

/-- The address after the scanline at `h`: `h + 4 + SrcRead(h, 4)` (R87). -/
def State.nextScanline (s : State) (h : Nat) : Nat := h + 4 + s.srcRead h 4

/-- Both headers of a scanline are in SRC: the colour header is checked before the index header, and either failure is
SRC_RANGE (R145, R146, R231). -/
def State.headersInSrc (s : State) (w : Walk) : Bool := s.inSrc w.hc 4 && s.inSrc w.hi 4

/-- Skip one row of both streams (R145). -/
def State.skipRow (s : State) (w : Walk) (left : Nat) : State :=
  if s.headersInSrc w then
    s.setWalk { w with phase := .skipRows left, hc := s.nextScanline w.hc, hi := s.nextScanline w.hi }
  else s.raiseError .srcRange

/-- Open drawn row `y`: read both headers and set the record cursors (R146). -/
def State.startRow (s : State) (w : Walk) : State :=
  if s.headersInSrc w then
    s.setWalk { w with phase := .records, endc := s.nextScanline w.hc, endi := s.nextScanline w.hi,
                       pc := w.hc + 4, pi := w.hi + 4, col := 0, row := [] }
  else s.raiseError .srcRange

/-- Row `y` is decoded: the next row starts at the next headers (R152). -/
def Walk.finishRow (w : Walk) : Walk :=
  { w with phase := .rowStart, hc := w.endc, hi := w.endi, y := w.y + 1, rows := w.rows ++ [w.row], row := [] }

/-- Fetch the record at `pi`: inside the scanline, inside SRC, then `pi` advances by 4 (R147). The decoder reads the
class and the length, which the record's meaning then checks. -/
def State.fetchRecord (s : State) (w : Walk) : Event :=
  if w.endi < w.pi + 4 then .settled (.next (s.raiseError .streamIndexOverrun))
  else if !s.inSrc w.pi 4 then .settled (.next (s.raiseError .srcRange))
  else
    match decode .indexRec (s.srcBytes w.pi 4) with
    | .ok (i, _) => .run i (s.setWalk { w with pi := w.pi + 4 })
    | .error .truncated => .settled (.next (s.raiseError .srcRange))

/-- The commit step's next part, for a walk in progress (R141). -/
def State.continueWalk (s : State) (w : Walk) : Event :=
  match w.phase with
  | .skipRows 0 => .settled (.next (s.setWalk { w with phase := .rowStart }))
  | .skipRows (left + 1) => .settled (.next (s.skipRow w left))
  | .rowStart =>
    if w.y < s.regs.height.toNat then .settled (.next (s.startRow w))
    else .settled (.next (s.writePhase w.rows).complete)
  | .records =>
    if w.col < s.lim then s.fetchRecord w
    else .settled (.next (s.setWalk w.finishRow))

/-- The engine's turn: the commit step while BUSY, nothing while IDLE (R266). -/
def State.engineTurn (s : State) : State := if s.busy then s.beginCommit else s

end Sys2Proof.Machine
end

