-- ==== Sys2Proof/Machine/HostPort.lean ====
section
/-! DEFINITION. HostPort.lean: the atomic actions of the agents around the engine (R267), and which of all the block's
actions comes next. Accesses of the host to SRC, FB and AP, and the environment's changes of the planes and the palette,
are enabled only while IDLE (R257, R262, R263); the model has no such move while BUSY (log entry 8). -/

namespace Sys2Proof.Machine

/-- A host access to a memory: refused while BUSY (R262), a fault where there is no such cell (log entry 9). -/
def State.hostAccess (s : State) (missing : Option Fault) (t : State) : Outcome :=
  if s.busy then .refused .hostMemoryAccessWhileBusy
  else match missing with
    | some f => .fault f
    | none => .next t

/-- The SRC byte does not exist (R50, R61). -/
def State.missingSrc (s : State) (addr : Nat) : Option Fault :=
  if addr < s.params.srcSize then none else some .noSuchSrcByte

/-- The FB cell does not exist (R50). -/
def State.missingFb (s : State) (i : Nat) : Option Fault :=
  if i < s.params.fbPixels then none else some .noSuchPixel

/-- The AP cell does not exist: no plane is attached (R50, R133), or the index is past its end. -/
def State.missingAp (s : State) (i : Nat) : Option Fault :=
  if s.apPresent then s.missingFb i else some .noAnimationPlane

/-- What the host read. -/
def State.returned (s : State) (d : ReadData) : State := { s with rdata := d }

/-- A change by the environment that is enabled only while IDLE (R257, R263). -/
def State.environmentChange (s : State) (o : Outcome) : Outcome :=
  if s.busy then .refused .environmentChangeWhileBusy else o

/-- The cells of a list with an index below `n`. -/
def cellsBelow {α : Type} (n : Nat) (l : List (Nat × α)) : List (Nat × α) := l.filter fun e => decide (e.1 < n)

/-- The planes resized to `n` cells: both planes always have the same size (R7), and a cell that remains keeps its value
(log entry 7). -/
def State.resizePlanes (s : State) (n : Nat) : State :=
  { s with params := { s.params with fbPixels := n }, fb := cellsBelow n s.fb, ap := cellsBelow n s.ap }

/-- One action of R267, taken from the agenda. A word written to offset 0 is a CMD write: its word is decoded and run
(R200); any other register write has the effect of R23 to R27. -/
def State.act (s : State) : Action → Event
  | .regRead off size => .settled (.next (s.returned (.word (s.regRead off size))))
  | .regWrite off size v =>
    if regOfAccess off size = some .cmd then .run (decodeCmd v) s
    else .settled (.next (s.regWrite off size v))
  | .srcRead addr => .settled (s.hostAccess (s.missingSrc addr) (s.returned (.byte (s.srcAt addr))))
  | .srcWrite addr v => .settled (s.hostAccess (s.missingSrc addr) (s.setSrc addr v))
  | .fbRead i => .settled (s.hostAccess (s.missingFb i) (s.returned (.colour (s.fbAt i))))
  | .fbWrite i c => .settled (s.hostAccess (s.missingFb i) (s.setFb i c))
  | .apRead i => .settled (s.hostAccess (s.missingAp i) (s.returned (.byte (s.apAt i))))
  | .apWrite i v => .settled (s.hostAccess (s.missingAp i) (s.setAp i v))
  | .setApPresent v => .settled (.next { s with apPresent := v })
  | .setAnimDisable v => .settled (.next { s with animDisable := v })
  | .envApWrite i v =>
    .settled (s.environmentChange (match s.missingFb i with
      | some f => .fault f
      | none => .next (s.setAp i v)))
  | .setPalette lookup nearest =>
    .settled (s.environmentChange
      (.next { s with params := { s.params with palLookup := lookup, palNearest := nearest } }))
  | .resize n =>
    .settled (s.environmentChange
      (if 1 ≤ n ∧ n ≤ 2 ^ 32 then .next (s.resizePlanes n) else .refused .sizeOutOfRange))
  | .engine => .settled (.next s.engineTurn)
  | .reset => .settled (.next s.applyReset)

/-- What comes next. A commit step in progress goes on, whatever the agenda holds (R141, R267). Else the first entry of
the agenda is taken. With an empty agenda the engine has its turn (R266). -/
def State.nextEvent (s : State) : Event :=
  match s.walk with
  | some w => s.continueWalk w
  | none =>
    match s.agenda with
    | a :: rest => State.act { s with agenda := rest } a
    | [] => .settled (.next s.engineTurn)

/-- Write the bytes of a list to SRC from `addr` on. -/
def State.storeSrc (s : State) (addr : Nat) : List Byte → State
  | [] => s
  | b :: rest => State.storeSrc (s.setSrc addr b) (addr + 1) rest

/-- A walk with a row open whose next record is at SRC address 0 and ends the scanline. -/
def walkAtRecord : Walk :=
  { phase := .records, hc := 0, hi := 0, endc := 4, endi := 4, pc := 4, pi := 0, col := 0, y := 0, rows := [],
    row := [] }

/-- The state with a CMD word as the next action (log entry 13). -/
def State.withCmdWrite (s : State) (w : Word) : State :=
  { s with walk := none, agenda := .regWrite RegName.cmd.offset .word w :: s.agenda }

/-- The state with an index record as the next one to be fetched: its four bytes at SRC address 0, a row open there, and
the SRC size, the clip and BUSY that the fetch takes (log entry 13). -/
def State.withRecord (s : State) (x : Word) : State :=
  { State.storeSrc s 0 (bytesOfWord x) with
      params := { s.params with srcSize := 2 ^ 32 },
      regs := { s.regs with width := 1#16, height := 1#16 },
      eng := .busy, walk := some walkAtRecord }

end Sys2Proof.Machine
end

