-- ==== Sys2Proof/Machine/Step.lean ====
section
/-! DEFINITION. Step.lean: one step of the machine. What comes next is settled in HostPort.lean and Engine.lean; where it
is a decoded instruction, the step is its meaning. -/

namespace Sys2Proof.Machine

/-- The outcome of an event: a decoded instruction is run. -/
def Event.outcome : Event → Host.Outcome State Fault Refusal
  | .run i t => exec i t
  | .settled o => o

/-- One step: a part of the commit step in progress, or one action of R267 (log entries 1 and 2). -/
def step (s : State) : Host.Outcome State Fault Refusal := s.nextEvent.outcome

/-- The state in which the next step runs the instruction with bits `w`, of which the opcode table gives the lowest
`nbits`, the bits above them 0: as a CMD write, or as the record the walk fetches next (log entry 13). -/
def State.withFetchWord (s : State) (nbits w : Nat) : State :=
  match formatOfBits nbits with
  | .cmd => s.withCmdWrite (BitVec.ofNat 32 (w % 2 ^ nbits))
  | .indexRec => s.withRecord (BitVec.ofNat 32 (w % 2 ^ nbits))

end Sys2Proof.Machine
end

