-- ==== Sys2Proof/Machine/DrawSpec.lean ====
section
/-! DEFINITION. DrawSpec.lean: the commit step as ONE function, transcribed line by line from the pseudocode of R141, one
column at a time. The machine does not run it: it is what the machine's parts (Engine.lean, Records.lean), taken one after
another, must come to (R141, R157). Loops over counters are recursions on what is left of them. -/

namespace Sys2Proof.Machine

/-- `for k in 0 .. N-1` of one record, with `left` values of `k` still to come: break right of the clip (R151), continue
left of it (R150), else give `Pix[y][c - SL]` its value (R148). -/
def specColumns (s : State) (endc pc col : Nat) (cls m : Byte) : Nat → Nat → Except ErrorCode (List Pix)
  | 0, _ => .ok []
  | left + 1, k =>
    if s.lim ≤ col + k then .ok []
    else if col + k < s.regs.skipLeft.toNat then specColumns s endc pc col cls m left (k + 1)
    else if cls = 0xFF#8 then (specColumns s endc pc col cls m left (k + 1)).map (Pix.skip :: ·)
    else if endc < pc + 4 * k + 4 then .error .streamColourOverrun
    else if s.params.srcSize < pc + 4 * k + 4 then .error .srcRange
    else if (s.srcColour (pc + 4 * k)).a = 0#8 then .error .streamAlpha0
    else (specColumns s endc pc col cls m left (k + 1)).map (Pix.draw (s.srcColour (pc + 4 * k)) m :: ·)

/-- `while col < lim` of one row, with `fuel` at least `lim - col`: each record covers at least one column (R159). -/
def specRecords (s : State) (endc endi : Nat) : Nat → Nat → Nat → Nat → Except ErrorCode (List Pix)
  | 0, _, _, _ => .ok []
  | fuel + 1, pc, pi, col =>
    if s.lim ≤ col then .ok []
    else if endi < pi + 4 then .error .streamIndexOverrun
    else if s.params.srcSize < pi + 4 then .error .srcRange
    else
      let mw : Half := BitVec.ofNat 16 (s.srcRead pi 2)
      let n : Nat := s.srcRead (pi + 2) 2
      let cls : Byte := mw.extractLsb' 8 8
      let m : Byte := mw.extractLsb' 0 8
      if cls ≠ 0x00#8 ∧ cls ≠ 0xFF#8 then .error .streamClass
      else if n = 0 then .error .streamZeroRun
      else do
        let ps ← specColumns s endc pc col cls m n 0
        let rest ← specRecords s endc endi fuel (if cls = 0x00#8 then pc + 4 * n else pc) (pi + 4) (col + n)
        pure (ps ++ rest)

/-- `for y in 0 .. H-1`, with `left` rows still to come (R146, R152). -/
def specRows (s : State) : Nat → Nat → Nat → Except ErrorCode (List (List Pix))
  | 0, _, _ => .ok []
  | left + 1, hc, hi =>
    if s.params.srcSize < hc + 4 then .error .srcRange
    else if s.params.srcSize < hi + 4 then .error .srcRange
    else do
      let endc := hc + 4 + s.srcRead hc 4
      let endi := hi + 4 + s.srcRead hi 4
      let row ← specRecords s endc endi s.lim (hc + 4) (hi + 4) 0
      let rest ← specRows s left endc endi
      pure (row :: rest)

/-- `repeat ST times` (R145), then the drawn rows. -/
def specSkip (s : State) : Nat → Nat → Nat → Except ErrorCode (List (List Pix))
  | 0, hc, hi => specRows s s.regs.height.toNat hc hi
  | left + 1, hc, hi =>
    if s.params.srcSize < hc + 4 then .error .srcRange
    else if s.params.srcSize < hi + 4 then .error .srcRange
    else specSkip s left (hc + 4 + s.srcRead hc 4) (hi + 4 + s.srcRead hi 4)

/-- Phase 1 of R141: the offset table, and every row. -/
def specValidate (s : State) : Except ErrorCode (List (List Pix)) :=
  let t := s.regs.spriteBase.toNat + 8 * s.latch.zoom.toNat
  if s.params.srcSize < t + 8 then .error .srcRange
  else
    let data := s.regs.spriteBase.toNat + 8 * s.params.nzoom
    specSkip s s.regs.skipTop.toNat (data + s.srcRead t 4) (data + s.srcRead (t + 4) 4)

/-- `Draw()` of R141: phase 0, phase 1, and phase 2 only when nothing failed (R140). -/
def State.drawSpec (s : State) : State :=
  let w := s.regs.width.toNat
  let h := s.regs.height.toNat
  let p := s.regs.dstPitch.toNat
  if s.params.nzoom ≤ s.latch.zoom.toNat then s.raiseError .zoomRange
  else if s.latch.mode.usesRemap ∧ s.latch.remapEn = false then s.raiseError .remapMissing
  else if w = 0 ∨ h = 0 then s.complete
  else if 1 < h ∧ p < w then s.raiseError .dstBounds
  else if s.params.fbPixels < s.regs.dstOff.toNat + (h - 1) * p + w then s.raiseError .dstBounds
  else if s.latch.mode.usesRemap ∧ s.params.srcSize < s.regs.remapBase.toNat + 256 then s.raiseError .srcRange
  else
    match specValidate s with
    | .error e => s.raiseError e
    | .ok rows => (s.writePhase rows).complete

end Sys2Proof.Machine
end

