-- ==== Sys2Proof/Machine/HostAsm.lean ====
section
/-! DEFINITION. HostAsm.lean: the host assembly of 44_control_commands.md (R207, R208): what each line puts on the agenda.
It is a notation for the host's moves, no part of the block. -/

namespace Sys2Proof.Machine

/-- One line of the host assembly (R207, R208). -/
inductive AsmLine where
  | wr (name : RegName) (imm : Word)
  | rd (name : RegName)
  | nop
  | clear
  /-- `draw.<mode> z [remap]`. -/
  | draw (mode : Mode) (zoom : Nat) (remap : Bool)
  | wait
  | clip (st sl w h : Word)
  | dest (off pitch : Word)
deriving DecidableEq, Repr

/-- Why an assembler refuses a line (R208). -/
inductive AsmError where
  /-- A `draw` line whose `z` is above 7. Safe: it has no encoding. -/
  | zoomAboveSeven
  /-- A `draw` line of a remap mode without the word `remap`. Safe: it has no encoding. -/
  | remapWordMissing
deriving DecidableEq, Repr

/-- The MODE value of a mode (R81). -/
def Mode.number : Mode → Nat
  | .normal => 0
  | .colourRemap => 1
  | .crashRemap => 2
  | .transparent => 3
  | .transparentRemap => 4
  | .blackRemap => 5

/-- `wr NAME, imm` is the pair (offset of NAME, imm) (R207). -/
def wrAction (name : RegName) (imm : Word) : Action := .regWrite name.offset .word imm

/-- `rd NAME` is the pair (offset of NAME, read) (R207). -/
def rdAction (name : RegName) : Action := .regRead name.offset .word

/-- The CMD word of a `draw` line: `0x1 | (mode << 4) | (z << 8) | (r << 12)` (R208). -/
def drawWord (mode : Mode) (zoom : Nat) (remap : Bool) : Word :=
  BitVec.ofNat 32 (0x1 ||| (mode.number <<< 4) ||| (zoom <<< 8) ||| (remap.toNat <<< 12))

/-- The expansion of a line (R208). `wait` polls STATUS until BUSY reads 0: here the engine has its turn and one poll
follows, the interleaving that the spec's own programs take (R209; log entry 19). -/
def expand : AsmLine → Except AsmError (List Action)
  | .wr name imm => .ok [wrAction name imm]
  | .rd name => .ok [rdAction name]
  | .nop => .ok [wrAction .cmd 0x0#32]
  | .clear => .ok [wrAction .cmd 0x2#32]
  | .draw mode zoom remap =>
    if 7 < zoom then .error .zoomAboveSeven
    else if mode.usesRemap && !remap then .error .remapWordMissing
    else .ok [wrAction .cmd (drawWord mode zoom remap)]
  | .wait => .ok [.engine, rdAction .status]
  | .clip st sl w h => .ok [wrAction .skipTop st, wrAction .skipLeft sl, wrAction .width w, wrAction .height h]
  | .dest off pitch => .ok [wrAction .dstOff off, wrAction .dstPitch pitch]

/-- The expansion of a program: the first refused line refuses it. -/
def assemble : List AsmLine → Except AsmError (List Action)
  | [] => .ok []
  | l :: rest => do
    let a ← expand l
    let as ← assemble rest
    pure (a ++ as)

end Sys2Proof.Machine
end

