-- ==== Sys2Proof/WellFormed.lean ====
section
/-! DEFINITION. WellFormed.lean: the terms of Instr that stand for an encoding. Every operand of the DRAW forms, CLEAR,
NOP, SKIP_REC and DRAW_REC fills its field exactly, so only the two catch-all rows need a check (R84, R92, R99). -/

namespace Sys2Proof

/-- The instruction is one that the encodings of 30_encoding.md hold: an ILLEGAL_CMD word is one that R84 calls illegal,
and the class of a RESERVED_REC is reserved (R92). -/
def Instr.wellFormed : Instr → Bool
  | .drawNormal _ _ => true
  | .drawColourRemap _ _ => true
  | .drawCrashRemap _ _ => true
  | .drawTransparent _ _ => true
  | .drawTransparentRemap _ _ => true
  | .drawBlackRemap _ _ => true
  | .clear _ _ _ => true
  | .nop _ _ _ => true
  | .illegalCmd w => illegalWord w
  | .skipRec _ _ => true
  | .drawRec _ _ => true
  | .reservedRec cls _ _ => reservedClass cls

end Sys2Proof
end

