-- ==== Sys2Proof/Safety.lean ====
section
/-! DEFINITION. Safety.lean: the terms in which claims are stated: the invariant of the machine, what "nothing else
changed" means, and the host's moves as steps. -/

namespace Sys2Proof.Machine

/-- STATUS keeps its form: at most one of BUSY, DONE and ERR is 1, ERR_CODE is nonzero exactly when ERR = 1 (R27), and it
is never a reserved code (R237). -/
def State.statusWf (s : State) : Bool :=
  !(s.busy && s.status.done) && !(s.busy && s.status.err) && !(s.status.done && s.status.err) &&
  (decide (s.status.errCode ≠ 0#4) == s.status.err) && decide (s.status.errCode.toNat ≤ 10)

/-- The implementation parameters are in their ranges (R5, R7). -/
def State.paramsWf (s : State) : Bool :=
  decide (1 ≤ s.params.nzoom) && decide (s.params.nzoom ≤ 8) &&
  decide (1 ≤ s.params.srcSize) && decide (s.params.srcSize ≤ 2 ^ 32) &&
  decide (1 ≤ s.params.fbPixels) && decide (s.params.fbPixels ≤ 2 ^ 32)

/-- What R143's checks have established, once a walk runs: the zoom level exists, the clip is not empty, the destination
is legal, and a remap table that the mode uses is there and in SRC. -/
def State.checksHold (s : State) : Bool :=
  decide (s.latch.zoom.toNat < s.params.nzoom) && !s.emptyClip && s.dstLegal &&
  (!s.latch.mode.usesRemap || (s.latch.remapEn && s.inSrc s.regs.remapBase.toNat 256))

/-- The decoded values are where the walk stands: every finished row has WIDTH values, the open row one for each visible
column it has passed, each given once (R154). -/
def State.rowsWf (s : State) (w : Walk) : Bool :=
  decide (w.rows.length = w.y) && (w.rows.all fun row => decide (row.length = s.regs.width.toNat)) &&
  match w.phase with
  | .skipRows _ => decide (w.y = 0) && decide (w.row = [])
  | .rowStart => decide (w.y ≤ s.regs.height.toNat) && decide (w.row = [])
  | .records =>
    decide (w.y < s.regs.height.toNat) &&
    decide (w.row.length = min w.col s.lim - s.regs.skipLeft.toNat)

/-- A walk runs only while BUSY, after R143's checks, and its values are in place. -/
def State.walkWf (s : State) : Bool :=
  match s.walk with
  | none => true
  | some w => s.busy && s.checksHold && s.rowsWf w

/-- The invariant of the machine. -/
def State.Inv (s : State) : Prop :=
  s.statusWf = true ∧ s.paramsWf = true ∧ s.walkWf = true ∧ s.memWf = true

/-- FB and AP hold the same at every cell. -/
def State.samePlanes (s t : State) : Prop := ∀ p, t.fbAt p = s.fbAt p ∧ t.apAt p = s.apAt p

/-- Nothing changed but the cell `p` of FB and of AP. -/
def State.sameExceptCell (p : Nat) (s t : State) : Prop :=
  t = { s with fb := t.fb, ap := t.ap } ∧ ∀ q, q ≠ p → t.fbAt q = s.fbAt q ∧ t.apAt q = s.apAt q

/-- A cell of the clip rectangle (R156). -/
def State.isClipCell (s : State) (p : Nat) : Prop :=
  ∃ y x, y < s.regs.height.toNat ∧ x < s.regs.width.toNat ∧ p = s.clipCell y x

/-- The walk has decoded every row, and the write phase is next (R155). -/
def State.readyToWrite (s : State) (w : Walk) : Prop :=
  s.walk = some w ∧ w.phase = .rowStart ∧ w.y = s.regs.height.toNat

/-- The columns `k` of a run that are visible, for a run of length `n` that starts at sprite column `col`: those with
`SKIP_LEFT ≤ col + k < SKIP_LEFT + WIDTH` (R150, R151). -/
def State.visibleColumns (s : State) (col n : Nat) : List Nat :=
  (List.range n).filter fun k => decide (s.regs.skipLeft.toNat ≤ col + k) && decide (col + k < s.lim)

/-- Column `k` of a drawable run passes every check of its colour record (R148). -/
def State.goodColumn (s : State) (w : Walk) (k : Nat) : Prop :=
  w.pc + 4 * k + 4 ≤ w.endc ∧ w.pc + 4 * k + 4 ≤ s.params.srcSize ∧ (s.srcColour (w.pc + 4 * k)).a ≠ 0#8

/-- A DRAW of `s` has ended with the error of code `code`, a number of the table of 60_exceptions.md section 1 (R232). -/
def State.endedWith (s : State) (code : BitVec 4) : State :=
  { s with eng := .idle, walk := none,
           status := { done := false, err := true, dropped := s.status.dropped, errCode := code } }

/-- The state with `a` as the next entry of the agenda. -/
def State.facing (s : State) (a : Action) : State := { s with agenda := a :: s.agenda }

/-- The DRAW form of a mode. -/
def drawInstr : Mode → BitVec 3 → Bool → Instr
  | .normal => .drawNormal
  | .colourRemap => .drawColourRemap
  | .crashRemap => .drawCrashRemap
  | .transparent => .drawTransparent
  | .transparentRemap => .drawTransparentRemap
  | .blackRemap => .drawBlackRemap

/-- The bits of a read-write register that are used (R22, R24): 0 for the registers a host cannot write. -/
def RegName.mask : RegName → Word
  | .cmd => 0#32
  | .status => 0#32
  | .cfg => 0x1#32
  | .skipTop => 0xFFFF#32
  | .skipLeft => 0xFFFF#32
  | .width => 0xFFFF#32
  | .height => 0xFFFF#32
  | .dstOff => 0xFFFFFFFF#32
  | .dstPitch => 0xFFFFFFFF#32
  | .spriteBase => 0xFFFFFFFF#32
  | .remapBase => 0xFFFFFFFF#32

/-- `OnCmdWrite(w)` of R200, its cases in the order shown there. -/
def State.onCmdWrite (s : State) (w : Word) : State :=
  if s.busy then
    (if w.getLsbD 0 || illegalWord w then s.markDropped
     else if w.getLsbD 1 then s.clearStatus
     else s)
  else if illegalWord w then s.raiseImmediate
  else if w.getLsbD 1 then s.clearStatus
  else if w.getLsbD 0 then
    { s with eng := .busy,
             latch := { mode := (match (w.extractLsb' 4 3).toNat with
                          | 0 => .normal | 1 => .colourRemap | 2 => .crashRemap | 3 => .transparent
                          | 4 => .transparentRemap | _ => .blackRemap),
                        zoom := w.extractLsb' 8 3, remapEn := w.getLsbD 12,
                        anim := s.apPresent && !s.animDisable },
             status := { s.status with done := false, err := false, errCode := 0#4 } }
  else s

/-- The steps after which a commit step that begins with an empty agenda is surely over (R159): its start, the skipped
rows, per drawn row its headers, at most SKIP_LEFT + WIDTH records and its end, and the write phase. -/
def State.commitBound (s : State) : Nat :=
  s.regs.skipTop.toNat + s.regs.height.toNat * (s.lim + 2) + 3

end Sys2Proof.Machine
end

