-- ==== Sys2Proof/Certificates/Slice0/Obligations.lean ====
section
/-! DEFINITION. Obligations.lean: the statements for the provers. Each says what the block does as a rule of spec/ gives
it, or an invariant of the machine, or that two readings of it agree. "A step" is `Sys2Proof.Machine.step`. -/

open Sys2Proof Sys2Proof.Machine

/-! ## Reset -/

/-- R250: what the reset event does, at once, and that it leaves everything else as it was. -/
def Obligations.ResetEventZeroesBlock : Prop :=
  ∀ s : State, s.walk = none → ∃ t, step (s.facing .reset) = .next t ∧
    t.eng = .idle ∧ t.latch.mode = .normal ∧ t.latch.zoom = 0#3 ∧ t.latch.remapEn = false ∧ t.latch.anim = false ∧
    t.statusWord = 0#32 ∧ (∀ name, t.regValue name = 0#32) ∧ t.irq = false ∧
    t = { s with regs := t.regs, status := t.status, eng := t.eng, latch := t.latch }

/-- R38: every register, STATUS and the engine state read 0 right after power-on, and `irq_o` is 0. -/
def Obligations.PowerOnStateReadsZero : Prop :=
  State.reset.eng = .idle ∧ State.reset.latch.mode = .normal ∧ State.reset.latch.zoom = 0#3 ∧
  State.reset.latch.remapEn = false ∧ State.reset.latch.anim = false ∧
  (∀ name, State.reset.regValue name = 0#32) ∧ State.reset.irq = false ∧ State.reset.walk = none

/-- R256: a START right after reset, with no register written, completes with DONE, and no memory changes. The agenda
that is run stands for the host's START and the engine's turn after it. -/
def Obligations.StartAfterResetCompletes : Prop :=
  ∀ s : State, s.walk = none → 1 ≤ s.params.nzoom →
    ∃ t, Host.Core.run Sys2Proof.core 3 { s with agenda := [.reset, wrAction .cmd 0x1#32, .engine] } = .next t ∧
      t.busy = false ∧ t.status.done = true ∧ t.status.err = false ∧
      t.src = s.src ∧ t.fb = s.fb ∧ t.ap = s.ap ∧ t.regs = Regs.zero

/-! ## The invariant -/

/-- The power-on state meets the invariant, whatever the OPEN parameters are. -/
def Obligations.PowerOnStateMeetsInvariant : Prop := State.reset.Inv

/-- From every state that meets the invariant, a step leads to a state that meets it: STATUS keeps its form (R27, R237), a
walk runs only while BUSY after R143's checks and gives each clip pixel one value (R154), and every memory lists only cells
that exist (R61), in canonical form. -/
def Obligations.EveryStepKeepsInvariant : Prop :=
  ∀ s t : State, s.Inv → step s = .next t → t.Inv

/-! ## Encoding -/

/-- Decoding the bytes of an encoded well-formed instruction gives it back, for every instruction, with every operand at
every value its field admits. -/
def Obligations.DecodeOfEncodeIsIdentity : Prop :=
  ∀ (i : Instr) (rest : List Byte), i.wellFormed = true →
    decode (formatOf i) (bytesOfWord (encode i) ++ rest) = .ok (i, rest)

/-- Every word is the encoding of what it decodes to: no bit of a CMD word or an index record is dropped, and every word
decodes to a well-formed instruction of its format. -/
def Obligations.EncodeOfDecodeIsIdentity : Prop :=
  ∀ (f : Format) (w : Word),
    encode (decodeWord f w) = w ∧ formatOf (decodeWord f w) = f ∧ (decodeWord f w).wellFormed = true

/-- Words written out from the spec's encodings decode to the instructions they stand for. -/
def Obligations.SpecWordsDecode : Prop :=
  decodeWord .cmd 0x00001211#32 = .drawColourRemap 2#3 true ∧
  decodeWord .cmd 0x00000051#32 = .drawBlackRemap 0#3 false ∧
  decodeWord .cmd 0x00000072#32 = .clear 7#3 0#3 false ∧
  decodeWord .cmd 0x00000570#32 = .nop 7#3 5#3 false ∧
  decodeWord .cmd 0x00000003#32 = .illegalCmd 0x00000003#32 ∧
  decodeWord .indexRec 0x0002FF00#32 = .skipRec 0#8 2#16 ∧
  decodeWord .indexRec 0x00040005#32 = .drawRec 5#8 4#16 ∧
  decodeWord .indexRec 0x00064200#32 = .reservedRec 0x42#8 0#8 6#16

/-! ## Steps -/

/-- A step runs the decoded instruction: the word of a CMD write that is the agenda's next entry, which the step takes off
the agenda; and, in an open row with columns to come, the record at `pi`, which the step moves past. -/
def Obligations.StepRunsDecodedInstruction : Prop :=
  (∀ (s : State) (word : Word) (rest : List Action), s.walk = none →
    s.agenda = .regWrite 0x00#8 .word word :: rest →
    step s = exec (decodeWord .cmd word) { s with agenda := rest }) ∧
  (∀ (s : State) (w : Walk) (i : Instr), s.walk = some w → w.phase = .records → w.col < s.lim →
    w.pi + 4 ≤ w.endi → w.pi + 4 ≤ s.params.srcSize → decode .indexRec (s.srcBytes w.pi 4) = .ok (i, []) →
    step s = exec i { s with walk := some { w with pi := w.pi + 4 } })

/-- R200: a CMD write is handled by the cases of `OnCmdWrite`, in their order, for every word and every state of the
engine between commit steps. -/
def Obligations.CmdWriteDispatch : Prop :=
  ∀ (s : State) (w : Word), s.walk = none →
    step (s.facing (.regWrite 0x00#8 .word w)) = .next (s.onCmdWrite w)

/-- While a commit step is in progress, and when the engine begins one, neither the agenda nor the two inputs are looked
at or changed: no other agent acts inside it (R32, R141, R267). -/
def Obligations.CommitStepIgnoresOtherAgents : Prop :=
  (∀ (s : State) (w : Walk) (others : List Action) (present disable : Bool), s.walk = some w →
    ∃ t, step s = .next t ∧
      t.agenda = s.agenda ∧ t.apPresent = s.apPresent ∧ t.animDisable = s.animDisable ∧
      step { s with agenda := others, apPresent := present, animDisable := disable } =
        .next { t with agenda := others, apPresent := present, animDisable := disable }) ∧
  (∀ (s : State) (others : List Action) (present disable : Bool), s.walk = none → s.busy = true →
    ∃ t, step (s.facing .engine) = .next t ∧
      t.agenda = s.agenda ∧ t.apPresent = s.apPresent ∧ t.animDisable = s.animDisable ∧
      step { s with agenda := .engine :: others, apPresent := present, animDisable := disable } =
        .next { t with agenda := others, apPresent := present, animDisable := disable })

/-! ## Commands -/

/-- R201: while IDLE a DRAW of any mode is accepted. The next state is given whole, so that everything else is
unchanged. -/
def Obligations.DrawIsAccepted : Prop :=
  ∀ (s : State) (z : BitVec 3) (r : Bool), s.eng = .idle →
    let accepted : Mode → State := fun mode =>
      { s with eng := .busy,
               latch := { mode := mode, zoom := z, remapEn := r, anim := s.apPresent && !s.animDisable },
               status := { done := false, err := false, dropped := s.status.dropped, errCode := 0#4 } }
    exec (.drawNormal z r) s = .next (accepted .normal) ∧
    exec (.drawColourRemap z r) s = .next (accepted .colourRemap) ∧
    exec (.drawCrashRemap z r) s = .next (accepted .crashRemap) ∧
    exec (.drawTransparent z r) s = .next (accepted .transparent) ∧
    exec (.drawTransparentRemap z r) s = .next (accepted .transparentRemap) ∧
    exec (.drawBlackRemap z r) s = .next (accepted .blackRemap)

/-- R203: a CMD write while BUSY with START = 1, or an illegal one, sets DROPPED and changes nothing else. -/
def Obligations.CmdWriteWhileBusyIsDropped : Prop :=
  ∀ (s : State) (w : Word), s.walk = none → s.busy = true → (w.getLsbD 0 = true ∨ illegalWord w = true) →
    step (s.facing (.regWrite 0x00#8 .word w)) = .next { s with status := { s.status with dropped := true } }

/-- R204: CLEAR clears DONE, ERR, ERR_CODE and DROPPED and changes nothing else; and while BUSY, where DONE and ERR are 0,
it only clears DROPPED. -/
def Obligations.ClearClearsStatus : Prop :=
  ∀ (s : State) (m z : BitVec 3) (r : Bool),
    exec (.clear m z r) s =
      .next { s with status := { done := false, err := false, dropped := false, errCode := 0#4 } } ∧
    (s.Inv → s.busy = true → exec (.clear m z r) s = .next { s with status := { s.status with dropped := false } })

/-- R205: a NOP changes no state, whether the engine is IDLE or BUSY. -/
def Obligations.NopChangesNothing : Prop :=
  ∀ (s : State) (m z : BitVec 3) (r : Bool), exec (.nop m z r) s = .next s

/-- R221: an illegal word while IDLE raises ILLEGAL_CMD, and nothing else changes. -/
def Obligations.IllegalWordRaisesIllegalCmd : Prop :=
  ∀ (s : State) (w : Word), s.eng = .idle →
    exec (.illegalCmd w) s =
      .next { s with status := { done := false, err := true, dropped := s.status.dropped, errCode := 1#4 } }

/-! ## Index records -/

/-- A skip record of an open row gives SKIP to each visible column, and consumes no colour record (R93, R148). -/
def Obligations.SkipRecordCoversVisibleColumns : Prop :=
  ∀ (s : State) (w : Walk) (m : Byte) (n : Half), s.walk = some w → w.phase = .records → n ≠ 0#16 →
    exec (.skipRec m n) s =
      .next { s with walk := some { w with
        row := w.row ++ (s.visibleColumns w.col n.toNat).map (fun _ => .skip), col := w.col + n.toNat } }

/-- A drawable record of an open row gives each visible column its colour record and the record's `m`, when every visible
column passes its checks, and the colour cursor passes N records (R93, R148). -/
def Obligations.DrawRecordCoversVisibleColumns : Prop :=
  ∀ (s : State) (w : Walk) (m : Byte) (n : Half), s.walk = some w → w.phase = .records → n ≠ 0#16 →
    (∀ k ∈ s.visibleColumns w.col n.toNat, s.goodColumn w k) →
    let colourAt : Nat → Colour := fun a =>
      { r := s.srcAt a, g := s.srcAt (a + 1), b := s.srcAt (a + 2), a := s.srcAt (a + 3) }
    exec (.drawRec m n) s =
      .next { s with walk := some { w with
        row := w.row ++ (s.visibleColumns w.col n.toNat).map (fun k => .draw (colourAt (w.pc + 4 * k)) m),
        pc := w.pc + 4 * n.toNat, col := w.col + n.toNat } }

/-- The first visible column of a drawable record that fails a check ends the command, with the error of that column's
first failing check (R148, R231): STREAM_COLOUR_OVERRUN (9), SRC_RANGE (5) or STREAM_ALPHA0 (10). -/
def Obligations.DrawRecordReportsFirstError : Prop :=
  ∀ (s : State) (w : Walk) (m : Byte) (n : Half) (k : Nat), s.walk = some w → w.phase = .records → n ≠ 0#16 →
    k ∈ s.visibleColumns w.col n.toNat → (∀ j ∈ s.visibleColumns w.col n.toNat, j < k → s.goodColumn w j) →
    (w.endc < w.pc + 4 * k + 4 → exec (.drawRec m n) s = .next (s.endedWith 9#4)) ∧
    (w.pc + 4 * k + 4 ≤ w.endc → s.params.srcSize < w.pc + 4 * k + 4 →
      exec (.drawRec m n) s = .next (s.endedWith 5#4)) ∧
    (w.pc + 4 * k + 4 ≤ w.endc → w.pc + 4 * k + 4 ≤ s.params.srcSize → (s.srcColour (w.pc + 4 * k)).a = 0#8 →
      exec (.drawRec m n) s = .next (s.endedWith 10#4))

/-- R227: a skip or drawable record with N = 0 raises STREAM_ZERO_RUN (7). -/
def Obligations.ZeroRunIsAnError : Prop :=
  ∀ (s : State) (w : Walk) (m : Byte), s.walk = some w → w.phase = .records →
    exec (.skipRec m 0#16) s = .next (s.endedWith 7#4) ∧ exec (.drawRec m 0#16) s = .next (s.endedWith 7#4)

/-- R226: a record of a reserved class raises STREAM_CLASS (6), whatever its length. -/
def Obligations.ReservedClassIsAnError : Prop :=
  ∀ (s : State) (w : Walk) (cls m : Byte) (n : Half), s.walk = some w → w.phase = .records →
    exec (.reservedRec cls m n) s = .next (s.endedWith 6#4)

/-- The model's choice (log entry 12): outside an open row a record has no meaning and is refused by name. -/
def Obligations.RecordOutsideRowIsRefused : Prop :=
  ∀ (s : State) (cls m : Byte) (n : Half), (∀ w, s.walk = some w → w.phase ≠ .records) →
    exec (.skipRec m n) s = .refused .recordOutsideRow ∧ exec (.drawRec m n) s = .refused .recordOutsideRow ∧
    exec (.reservedRec cls m n) s = .refused .recordOutsideRow

/-! ## The commit step -/

/-- The parameter checks of the commit step, each reached when the ones before it pass (R143, R222, R223, R224, R231):
ZOOM_RANGE (2), REMAP_MISSING (3), the empty clip, DST_BOUNDS (4), SRC_RANGE (5). -/
def Obligations.ParameterChecksInOrder : Prop :=
  ∀ s : State, s.walk = none → s.busy = true →
    let remapMode := s.latch.mode = .colourRemap ∨ s.latch.mode = .crashRemap ∨ s.latch.mode = .transparentRemap
    let w := s.regs.width.toNat
    let h := s.regs.height.toNat
    let p := s.regs.dstPitch.toNat
    let overlap := 1 < h ∧ p < w
    let outside := s.params.fbPixels < s.regs.dstOff.toNat + (h - 1) * p + w
    let tableOutside := s.params.srcSize < s.regs.remapBase.toNat + 256
    (s.params.nzoom ≤ s.latch.zoom.toNat → step (s.facing .engine) = .next (s.endedWith 2#4)) ∧
    (s.latch.zoom.toNat < s.params.nzoom →
      ((remapMode ∧ s.latch.remapEn = false) → step (s.facing .engine) = .next (s.endedWith 3#4)) ∧
      ((remapMode → s.latch.remapEn = true) →
        ((w = 0 ∨ h = 0) →
          step (s.facing .engine) =
            .next { s with eng := .idle, status := { s.status with done := true } }) ∧
        (0 < w → 0 < h →
          ((overlap ∨ outside) → step (s.facing .engine) = .next (s.endedWith 4#4)) ∧
          (¬ overlap → ¬ outside → (remapMode ∧ tableOutside) →
            step (s.facing .engine) = .next (s.endedWith 5#4)))))

/-- R144: when the parameter checks pass and the offset-table entry is in SRC, the walk begins at the headers of sprite
row 0 of the two streams of `cur_zoom`, with SKIP_TOP rows to skip; when the entry is not in SRC, SRC_RANGE (5) is
raised. A 4-byte field of SRC is little-endian (R52). -/
def Obligations.WalkStartsAtZoomStreams : Prop :=
  ∀ s : State, s.walk = none → s.busy = true → s.checksHold = true →
    let entry := s.regs.spriteBase.toNat + 8 * s.latch.zoom.toNat
    let data := s.regs.spriteBase.toNat + 8 * s.params.nzoom
    (s.params.srcSize < entry + 8 → step (s.facing .engine) = .next (s.endedWith 5#4)) ∧
    (entry + 8 ≤ s.params.srcSize → ∃ w, step (s.facing .engine) = .next { s with walk := some w } ∧
      w.hc = data + s.srcRead entry 4 ∧ w.hi = data + s.srcRead (entry + 4) 4 ∧
      w.phase = .skipRows s.regs.skipTop.toNat ∧ w.y = 0 ∧ w.rows = []) ∧
    (∀ a, s.srcRead a 4 = (s.srcAt a).toNat + 2 ^ 8 * (s.srcAt (a + 1)).toNat + 2 ^ 16 * (s.srcAt (a + 2)).toNat +
      2 ^ 24 * (s.srcAt (a + 3)).toNat)

/-- R145: a skipped row moves each header cursor past its scanline and decodes nothing; a header outside SRC raises
SRC_RANGE (5). -/
def Obligations.SkippedRowFollowsHeaders : Prop :=
  ∀ (s : State) (w : Walk) (left : Nat), s.walk = some w → w.phase = .skipRows (left + 1) →
    ((w.hc + 4 ≤ s.params.srcSize ∧ w.hi + 4 ≤ s.params.srcSize) →
      step s = .next { s with walk := some { w with
        phase := .skipRows left,
        hc := w.hc + 4 + s.srcRead w.hc 4, hi := w.hi + 4 + s.srcRead w.hi 4 } }) ∧
    ((s.params.srcSize < w.hc + 4 ∨ s.params.srcSize < w.hi + 4) → step s = .next (s.endedWith 5#4))

/-- R146: a drawn row starts by reading both headers and setting the cursors; a header outside SRC raises SRC_RANGE (5). -/
def Obligations.DrawnRowReadsHeaders : Prop :=
  ∀ (s : State) (w : Walk), s.walk = some w → w.phase = .rowStart → w.y < s.regs.height.toNat →
    ((w.hc + 4 ≤ s.params.srcSize ∧ w.hi + 4 ≤ s.params.srcSize) →
      step s = .next { s with walk := some { w with
        phase := .records,
        endc := w.hc + 4 + s.srcRead w.hc 4, endi := w.hi + 4 + s.srcRead w.hi 4,
        pc := w.hc + 4, pi := w.hi + 4, col := 0, row := [] } }) ∧
    ((s.params.srcSize < w.hc + 4 ∨ s.params.srcSize < w.hi + 4) → step s = .next (s.endedWith 5#4))

/-- R149, R152: a row whose records have reached `SKIP_LEFT + WIDTH` ends, and the next row starts at `endc` and `endi`. -/
def Obligations.FinishedRowMovesToNextHeaders : Prop :=
  ∀ (s : State) (w : Walk), s.walk = some w → w.phase = .records →
    s.regs.skipLeft.toNat + s.regs.width.toNat ≤ w.col →
    step s = .next { s with walk := some { w with
      phase := .rowStart, hc := w.endc, hi := w.endi, y := w.y + 1,
      rows := w.rows ++ [w.row], row := [] } }

/-- A record that would end past its scanline raises STREAM_INDEX_OVERRUN (8), and one that is in it but not in SRC raises
SRC_RANGE (5), while columns are still to come (R147, R228, R231). -/
def Obligations.FetchPastScanlineIsAnError : Prop :=
  ∀ (s : State) (w : Walk), s.walk = some w → w.phase = .records → w.col < s.regs.skipLeft.toNat + s.regs.width.toNat →
    (w.endi < w.pi + 4 → step s = .next (s.endedWith 8#4)) ∧
    (w.pi + 4 ≤ w.endi → s.params.srcSize < w.pi + 4 → step s = .next (s.endedWith 5#4))

/-- The engine's commit step, whatever the agenda holds after it, comes to exactly what the pseudocode of R141 gives, column
by column. R141 makes it one atomic step; that it is taken in parts here is the model's choice (log entry 2, DESIGN CHOICE):
between the parts there is a walk in progress and nothing else has changed, and they are over within `commitBound` steps, a
count of the model's own parts in which the loops have the bounds of R159. -/
def Obligations.CommitStepMeetsPseudocode : Prop :=
  ∀ s : State, s.busy = true → s.walk = none →
    ∃ n, 0 < n ∧ n ≤ s.commitBound ∧
      Host.Core.run Sys2Proof.core n (s.facing .engine) = .next s.drawSpec ∧
      ∀ k, 0 < k → k < n →
        ∃ w, Host.Core.run Sys2Proof.core k (s.facing .engine) = .next { s with walk := some w }

/-- Until the write phase, a commit step in progress changes nothing but its own cursors and values (R140). -/
def Obligations.ValidationWritesNothing : Prop :=
  ∀ (s t : State) (w : Walk), s.walk = some w → step s = .next t → t.busy = true →
    ∃ w', t = { s with walk := some w' }

/-- The codes of the errors (the table of 60_exceptions section 1), and R232: a step of a BUSY machine that ends in an error
ends the DRAW with a code of the commit step's errors; the engine is IDLE, DONE is 0, ERR is 1, PATH_ANIM and DROPPED are
kept, and the planes, SRC, the registers and everything else are as they were (the agenda has lost the engine's turn, if the
error was found in it). -/
def Obligations.ErrorEntryIsPrecise : Prop :=
  (ErrorCode.code .illegalCmd = 1#4 ∧ ErrorCode.code .zoomRange = 2#4 ∧ ErrorCode.code .remapMissing = 3#4 ∧
    ErrorCode.code .dstBounds = 4#4 ∧ ErrorCode.code .srcRange = 5#4 ∧ ErrorCode.code .streamClass = 6#4 ∧
    ErrorCode.code .streamZeroRun = 7#4 ∧ ErrorCode.code .streamIndexOverrun = 8#4 ∧
    ErrorCode.code .streamColourOverrun = 9#4 ∧ ErrorCode.code .streamAlpha0 = 10#4) ∧
  (∀ (s : State) (e : ErrorCode), s.raiseError e = s.endedWith e.code) ∧
  ∀ s t : State, s.Inv → s.busy = true → step s = .next t → t.status.err = true →
    ∃ code : BitVec 4, 2 ≤ code.toNat ∧ code.toNat ≤ 10 ∧ t = { s.endedWith code with agenda := t.agenda }

/-- R233: after a DRAW that ends in an error, FB and AP are exactly as they were before it, and the registers still hold
the command's values. -/
def Obligations.FailedDrawLeavesPlanes : Prop :=
  ∀ s t : State, s.Inv → s.busy = true → s.walk = none → s.agenda = [] →
    Host.Core.run Sys2Proof.core s.commitBound s = .next t → t.status.err = true →
    t.fb = s.fb ∧ t.ap = s.ap ∧ t.regs = s.regs ∧ t.src = s.src

/-- The engine never writes SRC, the registers, the inputs, the parameters or the latched fields (R33, R36): neither in its
turn, BUSY or IDLE, whether the turn is on the agenda or the agenda is empty, nor in a step of a walk. -/
def Obligations.EngineKeepsItsInputs : Prop :=
  let kept : State → State → Prop := fun s t =>
    t.src = s.src ∧ t.regs = s.regs ∧ t.params = s.params ∧ t.latch = s.latch ∧ t.apPresent = s.apPresent ∧
    t.animDisable = s.animDisable ∧ t.agenda = s.agenda ∧ t.rdata = s.rdata
  (∀ s : State, s.walk = none → ∃ t, step (s.facing .engine) = .next t ∧ kept s t) ∧
  (∀ s : State, s.walk = none → s.agenda = [] → ∃ t, step s = .next t ∧ kept s t) ∧
  (∀ (s : State) (w : Walk), s.walk = some w → ∃ t, step s = .next t ∧ kept s t)

/-! ## The write phase -/

/-- The write phase gives every clip pixel its pixel rule's result on the planes AS THEY WERE BEFORE THE COMMAND, a SKIP
pixel keeps its cell, and the command is DONE (R65, R155, R202). -/
def Obligations.WritePhaseIsPointwise : Prop :=
  ∀ (s : State) (w : Walk), s.Inv → s.readyToWrite w →
    ∃ t, step s = .next t ∧ t.eng = .idle ∧ t.status.done = true ∧ t.status.err = false ∧ t.walk = none ∧
      ∀ y x, y < s.regs.height.toNat → x < s.regs.width.toNat →
        let p := s.clipCell y x
        (∀ c m, pixAt w.rows y x = some (.draw c m) →
          t.fbAt p = (pixelRule s.latch.mode s.latch.anim p c m s).fbAt p ∧
          t.apAt p = (pixelRule s.latch.mode s.latch.anim p c m s).apAt p) ∧
        (pixAt w.rows y x = some .skip → t.fbAt p = s.fbAt p ∧ t.apAt p = s.apAt p)

/-- R156: the engine's turn changes no cell, and a step of a walk changes a cell of FB or AP only if it is the cell
`DST_OFF + y*DST_PITCH + x` of a clip pixel decoded as DRAW whose pixel rule, on the planes as they were, changes it. -/
def Obligations.DrawWritesOnlyDrawnClipCells : Prop :=
  (∀ s : State, s.walk = none → ∃ t, step (s.facing .engine) = .next t ∧ t.fb = s.fb ∧ t.ap = s.ap) ∧
  (∀ (s t : State) (w : Walk) (p : Nat), s.Inv → s.walk = some w → step s = .next t →
    (t.fbAt p ≠ s.fbAt p ∨ t.apAt p ≠ s.apAt p) →
    ∃ y x c m, y < s.regs.height.toNat ∧ x < s.regs.width.toNat ∧ p = s.clipCell y x ∧
      s.clipCell y x = s.regs.dstOff.toNat + y * s.regs.dstPitch.toNat + x ∧
      pixAt w.rows y x = some (.draw c m) ∧
      ((pixelRule s.latch.mode s.latch.anim p c m s).fbAt p ≠ s.fbAt p ∨
        (pixelRule s.latch.mode s.latch.anim p c m s).apAt p ≠ s.apAt p))

/-- R131: on the RGB-only path no part of the commit step writes AP, and its result does not depend on AP's contents or on
whether AP is there. -/
def Obligations.RgbPathIgnoresAnimationPlane : Prop :=
  (∀ (s : State) (w : Walk) (plane : List Host.Cell) (present : Bool), s.walk = some w → s.latch.anim = false →
    ∃ t, step s = .next t ∧ t.ap = s.ap ∧
      step { s with ap := plane, apPresent := present } = .next { t with ap := plane, apPresent := present }) ∧
  (∀ (s : State) (plane : List Host.Cell) (present : Bool), s.walk = none → s.busy = true → s.latch.anim = false →
    ∃ t, step (s.facing .engine) = .next t ∧ t.ap = s.ap ∧
      step ({ s with ap := plane, apPresent := present }.facing .engine) =
        .next { t with ap := plane, apPresent := present })

/-- R184: after the write phase of a BlackRemap DRAW every clip pixel decoded as DRAW is BLACK, with animation index 0 on
the animated path. -/
def Obligations.BlackRemapBlackensEveryPixel : Prop :=
  ∀ (s t : State) (w : Walk) (y x : Nat) (c : Colour) (m : Byte), s.Inv → s.readyToWrite w →
    s.latch.mode = .blackRemap → step s = .next t → y < s.regs.height.toNat → x < s.regs.width.toNat →
    pixAt w.rows y x = some (.draw c m) →
    t.fbAt (s.clipCell y x) = { r := 0#8, g := 0#8, b := 0#8, a := 255#8 } ∧
    (s.latch.anim = true → t.apAt (s.clipCell y x) = 0#8)

/-- R185: on the animated path a Normal DRAW of opaque pixels ends with FB = `s` and AP = `m` at each of them, whatever FB
and AP held. -/
def Obligations.NormalReproducesOpaqueSprite : Prop :=
  ∀ (s t : State) (w : Walk) (y x : Nat) (c : Colour) (m : Byte), s.Inv → s.readyToWrite w →
    s.latch.mode = .normal → s.latch.anim = true → step s = .next t → y < s.regs.height.toNat →
    x < s.regs.width.toNat → pixAt w.rows y x = some (.draw c m) → c.a = 255#8 →
    t.fbAt (s.clipCell y x) = c ∧ t.apAt (s.clipCell y x) = m

/-- R186: on the animated path TransparentRemap with the identity table leaves both planes unchanged at every cell with a
nonzero index. -/
def Obligations.IdentityRemapKeepsAnimatedCells : Prop :=
  ∀ (s t : State) (w : Walk) (p : Nat), s.Inv → s.readyToWrite w →
    s.latch.mode = .transparentRemap → s.latch.anim = true → (∀ i : Byte, s.srcAt (s.regs.remapBase.toNat + i.toNat) = i) →
    step s = .next t →
    s.apAt p ≠ 0#8 → t.fbAt p = s.fbAt p ∧ t.apAt p = s.apAt p

/-! ## The pixel rules -/

/-- R172, R173: Normal on both paths, and nothing else changes. -/
def Obligations.NormalPixel : Prop :=
  ∀ (s : State) (anim : Bool) (p : Nat) (c : Colour) (m : Byte), s.memWf = true → c.a ≠ 0#8 →
    let t := pixelRule .normal anim p c m s
    s.sameExceptCell p t ∧
    (c.a = 255#8 → t.fbAt p = c) ∧ (c.a ≠ 255#8 → t.fbAt p = compose c c.a (s.bg anim p)) ∧
    (anim = true → t.apAt p = if c.a = 255#8 then m else 0#8) ∧ (anim = false → t.ap = s.ap)

/-- R174, R175: ColourRemap on both paths, and nothing else changes. -/
def Obligations.ColourRemapPixel : Prop :=
  ∀ (s : State) (anim : Bool) (p : Nat) (c : Colour) (m : Byte), s.memWf = true → c.a ≠ 0#8 →
    let t := pixelRule .colourRemap anim p c m s
    let r := s.srcAt (s.regs.remapBase.toNat + m.toNat)
    s.sameExceptCell p t ∧ (anim = false → t.ap = s.ap) ∧
    (m = 0#8 → (t.fbAt p = if c.a = 255#8 then c else compose c c.a (s.bg anim p)) ∧ (anim = true → t.apAt p = 0#8)) ∧
    (m ≠ 0#8 → r = 0#8 → t = s) ∧
    (m ≠ 0#8 → r ≠ 0#8 →
      (t.fbAt p = if c.a = 255#8 then s.palLookup r else compose (s.palLookup r) c.a (s.bg anim p)) ∧
      (anim = true → t.apAt p = if c.a = 255#8 then r else 0#8))

/-- R176, R177: CrashRemap is ColourRemap but for `m = 0`, where the literal colour is darkened, on both paths. -/
def Obligations.CrashRemapPixel : Prop :=
  ∀ (s : State) (anim : Bool) (p : Nat) (c : Colour) (m : Byte), s.memWf = true → c.a ≠ 0#8 →
    let t := pixelRule .crashRemap anim p c m s
    s.sameExceptCell p t ∧ (anim = false → t.ap = s.ap) ∧
    (m = 0#8 → (t.fbAt p = if c.a = 255#8 then darken c else compose (darken c) c.a (s.bg anim p)) ∧
      (c.a = 255#8 → (t.fbAt p).a = 255#8) ∧ (anim = true → t.apAt p = 0#8)) ∧
    (m ≠ 0#8 → t = pixelRule .colourRemap anim p c m s)

/-- Transparent scales the background by 3/4 or by (1024 - α)/1024, without the source's colour, on both paths (R178, R179).
The spec marks the second factor as general knowledge (log entry 16). -/
def Obligations.TransparentPixel : Prop :=
  ∀ (s : State) (anim : Bool) (p : Nat) (c : Colour) (m : Byte), s.memWf = true → c.a ≠ 0#8 →
    let t := pixelRule .transparent anim p c m s
    s.sameExceptCell p t ∧ (anim = false → t.ap = s.ap) ∧ (anim = true → t.apAt p = 0#8) ∧
    (c.a = 255#8 → t.fbAt p = makeTransparent (s.bg anim p) 3 4) ∧
    (c.a ≠ 255#8 → t.fbAt p = makeTransparent (s.bg anim p) (1024 - c.a.toNat) 1024)

/-- R180, R181: TransparentRemap remaps the animation index, or the nearest index, and writes FB on the RGB-only path
only. -/
def Obligations.TransparentRemapPixel : Prop :=
  ∀ (s : State) (anim : Bool) (p : Nat) (c : Colour) (m : Byte), s.memWf = true →
    let t := pixelRule .transparentRemap anim p c m s
    let remapped : Byte → Byte := fun i => s.srcAt (s.regs.remapBase.toNat + i.toNat)
    s.sameExceptCell p t ∧
    (anim = true → t.fb = s.fb ∧
      (s.apAt p ≠ 0#8 → t.apAt p = remapped (s.apAt p)) ∧
      (s.apAt p = 0#8 → t.apAt p = remapped (s.palNearest (s.fbAt p)))) ∧
    (anim = false → t.ap = s.ap ∧ t.fbAt p = s.palLookup (remapped (s.palNearest (s.fbAt p))))

/-- R182, R183: BlackRemap makes the cell black, and clears its index on the animated path, whatever the source. -/
def Obligations.BlackRemapPixel : Prop :=
  ∀ (s : State) (anim : Bool) (p : Nat) (c : Colour) (m : Byte), s.memWf = true →
    let t := pixelRule .blackRemap anim p c m s
    s.sameExceptCell p t ∧ t.fbAt p = { r := 0#8, g := 0#8, b := 0#8, a := 255#8 } ∧
    (anim = true → t.apAt p = 0#8) ∧ (anim = false → t.ap = s.ap)

/-! ## Colour arithmetic -/

/-- Brightness by the formula of R111, which the spec marks as general knowledge (log entry 16): it is the exact weighted sum divided by 2^16, with nothing lost to the 8 bits of a lane. -/
def Obligations.BrightnessIsExact : Prop :=
  ∀ c : Colour,
    (brightness c).toNat = (19595 * c.r.toNat + 38470 * c.g.toNat + 7471 * c.b.toNat) / 65536

/-- Darken by the formula of R113, which the spec marks as general knowledge (log entry 16): it is a grey of the exact weighted sum divided by 2^16, at most 170, and it keeps the alpha lane. -/
def Obligations.DarkenIsExact : Prop :=
  ∀ c : Colour,
    (darken c).r.toNat = (13063 * c.r.toNat + 25647 * c.g.toNat + 4981 * c.b.toNat) / 65536 ∧
    (darken c).g = (darken c).r ∧ (darken c).b = (darken c).r ∧ (darken c).a = c.a ∧ (darken c).r.toNat ≤ 170

/-- Compose by the formula of R114, which the spec marks as general knowledge (log entry 16), with its laws: each lane of Compose is exact in the integers, between the background and the source, and the
result's alpha is 255. -/
def Obligations.ComposeIsExactAndBetween : Prop :=
  (∀ s alpha b : Byte,
    ((composeLane s alpha b).toNat : Int) =
      (b.toNat : Int) + Int.tdiv (((s.toNat : Int) - (b.toNat : Int)) * (alpha.toNat : Int)) 256 ∧
    min b.toNat s.toNat ≤ (composeLane s alpha b).toNat ∧ (composeLane s alpha b).toNat ≤ max b.toNat s.toNat) ∧
  (∀ (c : Colour) (alpha : Byte) (b : Colour),
    compose c alpha b =
      { r := composeLane c.r alpha b.r, g := composeLane c.g alpha b.g, b := composeLane c.b alpha b.b, a := 255#8 })

/-- MakeTransparent with the rounding of R115, which the spec marks as general knowledge (log entry 16), with its laws: each
lane of MakeTransparent is the exact floor, at most the lane it scales, for any factor of at
most 1, and the result's alpha is 255. -/
def Obligations.MakeTransparentIsExact : Prop :=
  ∀ (c : Colour) (nom den : Nat), nom ≤ den → 0 < den →
    (makeTransparent c nom den).r.toNat = c.r.toNat * nom / den ∧
    (makeTransparent c nom den).g.toNat = c.g.toNat * nom / den ∧
    (makeTransparent c nom den).b.toNat = c.b.toNat * nom / den ∧
    (makeTransparent c nom den).a = 255#8 ∧
    (makeTransparent c nom den).r.toNat ≤ c.r.toNat ∧ (makeTransparent c nom den).g.toNat ≤ c.g.toNat ∧
    (makeTransparent c nom den).b.toNat ≤ c.b.toNat

/-- R116: the background of a blend is the brightness-only grey (R112: three lanes of the brightness, alpha 255) of a cell with a nonzero animation index on the animated
path, and the cell's colour otherwise. -/
def Obligations.BackgroundOfBlend : Prop :=
  ∀ (s : State) (p : Nat),
    (s.apAt p ≠ 0#8 →
      s.bg true p =
        { r := brightness (s.fbAt p), g := brightness (s.fbAt p), b := brightness (s.fbAt p), a := 255#8 }) ∧
    (s.apAt p = 0#8 → s.bg true p = s.fbAt p) ∧ s.bg false p = s.fbAt p

/-! ## Registers, STATUS and the interrupt -/

/-- R24, with the offsets of R22's table as numbers and the field of the state that each register reads (its unused bits 0):
while IDLE a word written at a read-write register's offset stores its used bits, the other bits read 0, and no other register
and nothing else changes; a write to STATUS is ignored. -/
def Obligations.RegisterWriteReadsBack : Prop :=
  (RegName.cmd.offset = 0x00#8 ∧ RegName.status.offset = 0x04#8 ∧ RegName.cfg.offset = 0x08#8 ∧
    RegName.skipTop.offset = 0x0C#8 ∧ RegName.skipLeft.offset = 0x10#8 ∧ RegName.width.offset = 0x14#8 ∧
    RegName.height.offset = 0x18#8 ∧ RegName.dstOff.offset = 0x1C#8 ∧ RegName.dstPitch.offset = 0x20#8 ∧
    RegName.spriteBase.offset = 0x24#8 ∧ RegName.remapBase.offset = 0x28#8) ∧
  (∀ s : State,
    s.regValue .cmd = 0#32 ∧ s.regValue .status = s.statusWord ∧
    s.regValue .cfg = (if s.regs.irqEn then 1#32 else 0#32) ∧
    s.regValue .skipTop = s.regs.skipTop.zeroExtend 32 ∧ s.regValue .skipLeft = s.regs.skipLeft.zeroExtend 32 ∧
    s.regValue .width = s.regs.width.zeroExtend 32 ∧ s.regValue .height = s.regs.height.zeroExtend 32 ∧
    s.regValue .dstOff = s.regs.dstOff ∧ s.regValue .dstPitch = s.regs.dstPitch ∧
    s.regValue .spriteBase = s.regs.spriteBase ∧ s.regValue .remapBase = s.regs.remapBase) ∧
  ∀ (s : State) (v : Word), s.walk = none → s.eng = .idle →
    (∀ name : RegName, name ≠ .cmd → name ≠ .status →
      ∃ t, step (s.facing (.regWrite name.offset .word v)) = .next t ∧ t.regValue name = v &&& name.mask ∧
        (∀ other, other ≠ name → t.regValue other = s.regValue other) ∧ t = { s with regs := t.regs }) ∧
    step (s.facing (.regWrite 0x04#8 .word v)) = .next s

/-- R25: while BUSY a write to a parameter register, to CFG or to STATUS is ignored. A read of any register, BUSY or IDLE,
returns its current value and has no side effect: in particular, a read of STATUS clears nothing (R206). -/
def Obligations.RegisterAccessWhileBusy : Prop :=
  ∀ (s : State) (name : RegName) (v : Word), s.walk = none →
    (s.busy = true → name ≠ .cmd → step (s.facing (.regWrite name.offset .word v)) = .next s) ∧
    step (s.facing (.regRead name.offset .word)) = .next { s with rdata := .word (s.regValue name) }

/-- R23: an access that is narrower than 32 bits, or whose offset is not a multiple of 4 or is reserved, has no effect, and
such a read returns 0. -/
def Obligations.BadRegisterAccessHasNoEffect : Prop :=
  ∀ (s : State) (off : BitVec 8) (size : Access) (v : Word), s.walk = none →
    (size ≠ .word ∨ off.toNat % 4 ≠ 0 ∨ 0x2C ≤ off.toNat) →
    step (s.facing (.regWrite off size v)) = .next s ∧
    step (s.facing (.regRead off size)) = .next { s with rdata := .word 0#32 }

/-- The layout of STATUS: each field at its bits, and every other bit 0 (10_state section 2.2, R34). -/
def Obligations.StatusWordLayout : Prop :=
  ∀ s : State, s.statusWord.toNat =
    s.busy.toNat + 2 * s.status.done.toNat + 4 * s.status.err.toNat + 8 * s.status.dropped.toNat +
    16 * s.latch.anim.toNat + 256 * s.status.errCode.toNat

/-- R235: in every state, BUSY or IDLE or inside a walk, the interrupt is pending exactly while DONE or ERR is 1, and
CFG.IRQ_EN masks it; a write to CFG changes no STATUS bit, and setting IRQ_EN while DONE or ERR is 1 raises it at once; every
legal word with CLEAR = 1, while IDLE and while BUSY, and every accepted START, whatever its mode, zoom and remap bit, clear
it. -/
def Obligations.InterruptFollowsDoneAndErr : Prop :=
  (∀ s : State, s.irq = true ↔ s.regs.irqEn = true ∧ (s.status.done = true ∨ s.status.err = true)) ∧
  (∀ (s : State) (v : Word), s.walk = none → s.eng = .idle →
    ∃ t, step (s.facing (wrAction .cfg v)) = .next t ∧ t.status = s.status ∧
      (t.irq = true ↔ v.getLsbD 0 = true ∧ (s.status.done = true ∨ s.status.err = true))) ∧
  (∀ (s : State) (w : Word), s.walk = none → illegalWord w = false → w.getLsbD 1 = true →
    ∃ t, step (s.facing (wrAction .cmd w)) = .next t ∧ t.status.done = false ∧ t.status.err = false ∧ t.irq = false) ∧
  (∀ (s : State) (w : Word), s.walk = none → s.eng = .idle → illegalWord w = false → w.getLsbD 0 = true →
    ∃ t, step (s.facing (wrAction .cmd w)) = .next t ∧ t.eng = .busy ∧ t.status.done = false ∧ t.status.err = false ∧
      t.irq = false)

/-! ## The host's memories -/

/-- While IDLE a host write to an FB, AP or SRC cell that exists stores it, so that reading the cell gives it, and every
other cell of every memory reads as before (R57, R267 c); so does the environment's write to an AP cell (R267 d). The
environment's changes of the two inputs are always enabled, BUSY or IDLE (R267 d; log entry 11), and change nothing else. Its
change of the palette and of the planes' size while IDLE (log entry 7, DEDUCED) changes nothing else; a cell that remains
keeps its value. -/
def Obligations.HostMemoryWriteStores : Prop :=
  (∀ (s : State) (i : Nat) (c : Colour) (v : Byte), s.Inv → s.walk = none → s.eng = .idle →
    (i < s.params.fbPixels → ∃ t, step (s.facing (.fbWrite i c)) = .next t ∧ t = { s with fb := t.fb } ∧
      t.fbAt i = c ∧ ∀ j, j ≠ i → t.fbAt j = s.fbAt j) ∧
    (i < s.params.fbPixels → s.apPresent = true → ∃ t, step (s.facing (.apWrite i v)) = .next t ∧
      t = { s with ap := t.ap } ∧ t.apAt i = v ∧ ∀ j, j ≠ i → t.apAt j = s.apAt j) ∧
    (i < s.params.fbPixels → ∃ t, step (s.facing (.envApWrite i v)) = .next t ∧
      t = { s with ap := t.ap } ∧ t.apAt i = v ∧ ∀ j, j ≠ i → t.apAt j = s.apAt j) ∧
    (i < s.params.srcSize → ∃ t, step (s.facing (.srcWrite i v)) = .next t ∧ t = { s with src := t.src } ∧
      t.srcAt i = v ∧ ∀ j, j ≠ i → t.srcAt j = s.srcAt j) ∧
    (∀ lookup nearest, step (s.facing (.setPalette lookup nearest)) =
      .next { s with params := { s.params with palLookup := lookup, palNearest := nearest } }) ∧
    (1 ≤ i → i ≤ 2 ^ 32 → ∃ t, step (s.facing (.resize i)) = .next t ∧
      t = { s with params := { s.params with fbPixels := i }, fb := t.fb, ap := t.ap } ∧
      ∀ j, j < i → t.fbAt j = s.fbAt j ∧ t.apAt j = s.apAt j)) ∧
  (∀ (s : State) (b : Bool), s.walk = none →
    step (s.facing (.setApPresent b)) = .next { s with apPresent := b } ∧
    step (s.facing (.setAnimDisable b)) = .next { s with animDisable := b })

/-- While IDLE a host read of an SRC byte, an FB cell or an AP cell that exists returns it and changes nothing else
(R57, R267 c). -/
def Obligations.HostMemoryReadReturns : Prop :=
  ∀ (s : State) (i : Nat), s.walk = none → s.eng = .idle →
    (i < s.params.fbPixels → step (s.facing (.fbRead i)) = .next { s with rdata := .colour (s.fbAt i) }) ∧
    (i < s.params.fbPixels → s.apPresent = true →
      step (s.facing (.apRead i)) = .next { s with rdata := .byte (s.apAt i) }) ∧
    (i < s.params.srcSize → step (s.facing (.srcRead i)) = .next { s with rdata := .byte (s.srcAt i) })

/-- Each piece of state changes only by its own agent. A register changes by a host write of a word while IDLE, or by reset;
SRC by a host write while IDLE; FB by a host write while IDLE, a resize while IDLE or the write phase, and AP by these or by
the environment while IDLE; each input by the environment; STATUS by a CMD write, the engine or reset; the latched fields by a
legal START while IDLE or by reset. The engine becomes BUSY only by a legal START, and IDLE only by its own step or by reset
(R25, R33, R36, R200, R201, R250, R266). -/
def Obligations.ChangesComeFromTheirAgent : Prop :=
  ∀ s t : State, s.Inv → step s = .next t →
    let started := s.eng = .idle ∧
      ∃ v rest, s.agenda = .regWrite 0x00#8 .word v :: rest ∧ v.getLsbD 0 = true ∧ illegalWord v = false
    let engineStep := (∃ w, s.walk = some w) ∨ s.agenda = [] ∨ ∃ rest, s.agenda = .engine :: rest
    let wasReset := ∃ rest, s.agenda = .reset :: rest
    let resized := s.eng = .idle ∧ ∃ n rest, s.agenda = .resize n :: rest
    let writePhase := ∃ w, s.readyToWrite w
    (t.regs ≠ s.regs → (∃ off v rest, s.agenda = .regWrite off .word v :: rest ∧ s.eng = .idle) ∨ wasReset) ∧
    (t.src ≠ s.src → ∃ a v rest, s.agenda = .srcWrite a v :: rest ∧ s.eng = .idle) ∧
    (t.fb ≠ s.fb → (∃ i c rest, s.agenda = .fbWrite i c :: rest ∧ s.eng = .idle) ∨ resized ∨ writePhase) ∧
    (t.ap ≠ s.ap →
      (∃ i v rest, (s.agenda = .apWrite i v :: rest ∨ s.agenda = .envApWrite i v :: rest) ∧ s.eng = .idle) ∨
        resized ∨ writePhase) ∧
    (t.apPresent ≠ s.apPresent → ∃ v rest, s.agenda = .setApPresent v :: rest) ∧
    (t.animDisable ≠ s.animDisable → ∃ v rest, s.agenda = .setAnimDisable v :: rest) ∧
    (t.status ≠ s.status → (∃ v rest, s.agenda = .regWrite 0x00#8 .word v :: rest) ∨ engineStep ∨ wasReset) ∧
    (t.latch ≠ s.latch → started ∨ wasReset) ∧
    (s.eng = .idle → t.eng = .busy → started) ∧
    (s.eng = .busy → t.eng = .idle → engineStep ∨ wasReset)

/-- While BUSY no host access to SRC, FB or AP, and no change of AP, of its size or of the palette by the environment, is
enabled. R262 gives this for the host's SRC write and its FB and AP accesses, R64 and D38 for its SRC read, R263 and R257
for the environment and the palette; that such a move is refused by name is the model's choice (log entry 8, DEDUCED). -/
def Obligations.MemoryMovesNotEnabledWhileBusy : Prop :=
  ∀ (s : State) (i : Nat) (c : Colour) (v : Byte), s.walk = none → s.busy = true →
    step (s.facing (.srcRead i)) = .refused .hostMemoryAccessWhileBusy ∧
    step (s.facing (.srcWrite i v)) = .refused .hostMemoryAccessWhileBusy ∧
    step (s.facing (.fbRead i)) = .refused .hostMemoryAccessWhileBusy ∧
    step (s.facing (.fbWrite i c)) = .refused .hostMemoryAccessWhileBusy ∧
    step (s.facing (.apRead i)) = .refused .hostMemoryAccessWhileBusy ∧
    step (s.facing (.apWrite i v)) = .refused .hostMemoryAccessWhileBusy ∧
    step (s.facing (.envApWrite i v)) = .refused .environmentChangeWhileBusy ∧
    step (s.facing (.resize i)) = .refused .environmentChangeWhileBusy ∧
    (∀ lookup nearest, step (s.facing (.setPalette lookup nearest)) = .refused .environmentChangeWhileBusy)

/-- The host assembly's `draw` lines: a line that R208 allows stands for a CMD word that decodes to the DRAW of its mode,
zoom and remap bit, and the others are refused. -/
def Obligations.AssembledDrawDecodes : Prop :=
  ∀ (mode : Mode) (z : Nat) (remap : Bool),
    (7 < z → expand (.draw mode z remap) = .error .zoomAboveSeven) ∧
    (z ≤ 7 → mode.usesRemap = true → remap = false → expand (.draw mode z remap) = .error .remapWordMissing) ∧
    (z ≤ 7 → (mode.usesRemap = true → remap = true) →
      ∃ w, expand (.draw mode z remap) = .ok [wrAction .cmd w] ∧
        decodeCmd w = drawInstr mode (BitVec.ofNat 3 z) remap)
end

