-- ==== Sys2Proof/Laws/State.lean ====
section
/-! SUPPORT. Laws/State.lean: for each named update of State, what each field reads after it. Every one is true by
unfolding the update once, so that no later proof has to. -/

namespace Sys2Proof.Machine

/-! `setSrc` -/

@[simp] theorem State.setSrc_params (s : State) (a : Nat) (v : Byte) : (s.setSrc a v).params = s.params := rfl
@[simp] theorem State.setSrc_regs (s : State) (a : Nat) (v : Byte) : (s.setSrc a v).regs = s.regs := rfl
@[simp] theorem State.setSrc_status (s : State) (a : Nat) (v : Byte) : (s.setSrc a v).status = s.status := rfl
@[simp] theorem State.setSrc_eng (s : State) (a : Nat) (v : Byte) : (s.setSrc a v).eng = s.eng := rfl
@[simp] theorem State.setSrc_latch (s : State) (a : Nat) (v : Byte) : (s.setSrc a v).latch = s.latch := rfl
@[simp] theorem State.setSrc_apPresent (s : State) (a : Nat) (v : Byte) : (s.setSrc a v).apPresent = s.apPresent := rfl
@[simp] theorem State.setSrc_animDisable (s : State) (a : Nat) (v : Byte) : (s.setSrc a v).animDisable = s.animDisable := rfl
@[simp] theorem State.setSrc_src (s : State) (a : Nat) (v : Byte) : (s.setSrc a v).src = cellWrite unlistedByte s.src a v := rfl
@[simp] theorem State.setSrc_fb (s : State) (a : Nat) (v : Byte) : (s.setSrc a v).fb = s.fb := rfl
@[simp] theorem State.setSrc_ap (s : State) (a : Nat) (v : Byte) : (s.setSrc a v).ap = s.ap := rfl
@[simp] theorem State.setSrc_walk (s : State) (a : Nat) (v : Byte) : (s.setSrc a v).walk = s.walk := rfl
@[simp] theorem State.setSrc_agenda (s : State) (a : Nat) (v : Byte) : (s.setSrc a v).agenda = s.agenda := rfl
@[simp] theorem State.setSrc_rdata (s : State) (a : Nat) (v : Byte) : (s.setSrc a v).rdata = s.rdata := rfl

/-! `setFb` -/

@[simp] theorem State.setFb_params (s : State) (i : Nat) (c : Colour) : (s.setFb i c).params = s.params := rfl
@[simp] theorem State.setFb_regs (s : State) (i : Nat) (c : Colour) : (s.setFb i c).regs = s.regs := rfl
@[simp] theorem State.setFb_status (s : State) (i : Nat) (c : Colour) : (s.setFb i c).status = s.status := rfl
@[simp] theorem State.setFb_eng (s : State) (i : Nat) (c : Colour) : (s.setFb i c).eng = s.eng := rfl
@[simp] theorem State.setFb_latch (s : State) (i : Nat) (c : Colour) : (s.setFb i c).latch = s.latch := rfl
@[simp] theorem State.setFb_apPresent (s : State) (i : Nat) (c : Colour) : (s.setFb i c).apPresent = s.apPresent := rfl
@[simp] theorem State.setFb_animDisable (s : State) (i : Nat) (c : Colour) : (s.setFb i c).animDisable = s.animDisable := rfl
@[simp] theorem State.setFb_src (s : State) (i : Nat) (c : Colour) : (s.setFb i c).src = s.src := rfl
@[simp] theorem State.setFb_fb (s : State) (i : Nat) (c : Colour) : (s.setFb i c).fb = cellWrite unlistedColour s.fb i c := rfl
@[simp] theorem State.setFb_ap (s : State) (i : Nat) (c : Colour) : (s.setFb i c).ap = s.ap := rfl
@[simp] theorem State.setFb_walk (s : State) (i : Nat) (c : Colour) : (s.setFb i c).walk = s.walk := rfl
@[simp] theorem State.setFb_agenda (s : State) (i : Nat) (c : Colour) : (s.setFb i c).agenda = s.agenda := rfl
@[simp] theorem State.setFb_rdata (s : State) (i : Nat) (c : Colour) : (s.setFb i c).rdata = s.rdata := rfl

/-! `setAp` -/

@[simp] theorem State.setAp_params (s : State) (i : Nat) (v : Byte) : (s.setAp i v).params = s.params := rfl
@[simp] theorem State.setAp_regs (s : State) (i : Nat) (v : Byte) : (s.setAp i v).regs = s.regs := rfl
@[simp] theorem State.setAp_status (s : State) (i : Nat) (v : Byte) : (s.setAp i v).status = s.status := rfl
@[simp] theorem State.setAp_eng (s : State) (i : Nat) (v : Byte) : (s.setAp i v).eng = s.eng := rfl
@[simp] theorem State.setAp_latch (s : State) (i : Nat) (v : Byte) : (s.setAp i v).latch = s.latch := rfl
@[simp] theorem State.setAp_apPresent (s : State) (i : Nat) (v : Byte) : (s.setAp i v).apPresent = s.apPresent := rfl
@[simp] theorem State.setAp_animDisable (s : State) (i : Nat) (v : Byte) : (s.setAp i v).animDisable = s.animDisable := rfl
@[simp] theorem State.setAp_src (s : State) (i : Nat) (v : Byte) : (s.setAp i v).src = s.src := rfl
@[simp] theorem State.setAp_fb (s : State) (i : Nat) (v : Byte) : (s.setAp i v).fb = s.fb := rfl
@[simp] theorem State.setAp_ap (s : State) (i : Nat) (v : Byte) : (s.setAp i v).ap = cellWrite unlistedByte s.ap i v := rfl
@[simp] theorem State.setAp_walk (s : State) (i : Nat) (v : Byte) : (s.setAp i v).walk = s.walk := rfl
@[simp] theorem State.setAp_agenda (s : State) (i : Nat) (v : Byte) : (s.setAp i v).agenda = s.agenda := rfl
@[simp] theorem State.setAp_rdata (s : State) (i : Nat) (v : Byte) : (s.setAp i v).rdata = s.rdata := rfl

/-! `setWalk` -/

@[simp] theorem State.setWalk_params (s : State) (w : Walk) : (s.setWalk w).params = s.params := rfl
@[simp] theorem State.setWalk_regs (s : State) (w : Walk) : (s.setWalk w).regs = s.regs := rfl
@[simp] theorem State.setWalk_status (s : State) (w : Walk) : (s.setWalk w).status = s.status := rfl
@[simp] theorem State.setWalk_eng (s : State) (w : Walk) : (s.setWalk w).eng = s.eng := rfl
@[simp] theorem State.setWalk_latch (s : State) (w : Walk) : (s.setWalk w).latch = s.latch := rfl
@[simp] theorem State.setWalk_apPresent (s : State) (w : Walk) : (s.setWalk w).apPresent = s.apPresent := rfl
@[simp] theorem State.setWalk_animDisable (s : State) (w : Walk) : (s.setWalk w).animDisable = s.animDisable := rfl
@[simp] theorem State.setWalk_src (s : State) (w : Walk) : (s.setWalk w).src = s.src := rfl
@[simp] theorem State.setWalk_fb (s : State) (w : Walk) : (s.setWalk w).fb = s.fb := rfl
@[simp] theorem State.setWalk_ap (s : State) (w : Walk) : (s.setWalk w).ap = s.ap := rfl
@[simp] theorem State.setWalk_walk (s : State) (w : Walk) : (s.setWalk w).walk = some w := rfl
@[simp] theorem State.setWalk_agenda (s : State) (w : Walk) : (s.setWalk w).agenda = s.agenda := rfl
@[simp] theorem State.setWalk_rdata (s : State) (w : Walk) : (s.setWalk w).rdata = s.rdata := rfl

/-! `raiseError` -/

@[simp] theorem State.raiseError_params (s : State) (e : ErrorCode) : (s.raiseError e).params = s.params := rfl
@[simp] theorem State.raiseError_regs (s : State) (e : ErrorCode) : (s.raiseError e).regs = s.regs := rfl
@[simp] theorem State.raiseError_status (s : State) (e : ErrorCode) : (s.raiseError e).status = { s.status with done := false, err := true, errCode := e.code } := rfl
@[simp] theorem State.raiseError_eng (s : State) (e : ErrorCode) : (s.raiseError e).eng = .idle := rfl
@[simp] theorem State.raiseError_latch (s : State) (e : ErrorCode) : (s.raiseError e).latch = s.latch := rfl
@[simp] theorem State.raiseError_apPresent (s : State) (e : ErrorCode) : (s.raiseError e).apPresent = s.apPresent := rfl
@[simp] theorem State.raiseError_animDisable (s : State) (e : ErrorCode) : (s.raiseError e).animDisable = s.animDisable := rfl
@[simp] theorem State.raiseError_src (s : State) (e : ErrorCode) : (s.raiseError e).src = s.src := rfl
@[simp] theorem State.raiseError_fb (s : State) (e : ErrorCode) : (s.raiseError e).fb = s.fb := rfl
@[simp] theorem State.raiseError_ap (s : State) (e : ErrorCode) : (s.raiseError e).ap = s.ap := rfl
@[simp] theorem State.raiseError_walk (s : State) (e : ErrorCode) : (s.raiseError e).walk = none := rfl
@[simp] theorem State.raiseError_agenda (s : State) (e : ErrorCode) : (s.raiseError e).agenda = s.agenda := rfl
@[simp] theorem State.raiseError_rdata (s : State) (e : ErrorCode) : (s.raiseError e).rdata = s.rdata := rfl

/-! `raiseImmediate` -/

@[simp] theorem State.raiseImmediate_params (s : State) : (s.raiseImmediate).params = s.params := rfl
@[simp] theorem State.raiseImmediate_regs (s : State) : (s.raiseImmediate).regs = s.regs := rfl
@[simp] theorem State.raiseImmediate_status (s : State) : (s.raiseImmediate).status = { s.status with done := false, err := true, errCode := 1#4 } := rfl
@[simp] theorem State.raiseImmediate_eng (s : State) : (s.raiseImmediate).eng = s.eng := rfl
@[simp] theorem State.raiseImmediate_latch (s : State) : (s.raiseImmediate).latch = s.latch := rfl
@[simp] theorem State.raiseImmediate_apPresent (s : State) : (s.raiseImmediate).apPresent = s.apPresent := rfl
@[simp] theorem State.raiseImmediate_animDisable (s : State) : (s.raiseImmediate).animDisable = s.animDisable := rfl
@[simp] theorem State.raiseImmediate_src (s : State) : (s.raiseImmediate).src = s.src := rfl
@[simp] theorem State.raiseImmediate_fb (s : State) : (s.raiseImmediate).fb = s.fb := rfl
@[simp] theorem State.raiseImmediate_ap (s : State) : (s.raiseImmediate).ap = s.ap := rfl
@[simp] theorem State.raiseImmediate_walk (s : State) : (s.raiseImmediate).walk = s.walk := rfl
@[simp] theorem State.raiseImmediate_agenda (s : State) : (s.raiseImmediate).agenda = s.agenda := rfl
@[simp] theorem State.raiseImmediate_rdata (s : State) : (s.raiseImmediate).rdata = s.rdata := rfl

/-! `complete` -/

@[simp] theorem State.complete_params (s : State) : (s.complete).params = s.params := rfl
@[simp] theorem State.complete_regs (s : State) : (s.complete).regs = s.regs := rfl
@[simp] theorem State.complete_status (s : State) : (s.complete).status = { s.status with done := true } := rfl
@[simp] theorem State.complete_eng (s : State) : (s.complete).eng = .idle := rfl
@[simp] theorem State.complete_latch (s : State) : (s.complete).latch = s.latch := rfl
@[simp] theorem State.complete_apPresent (s : State) : (s.complete).apPresent = s.apPresent := rfl
@[simp] theorem State.complete_animDisable (s : State) : (s.complete).animDisable = s.animDisable := rfl
@[simp] theorem State.complete_src (s : State) : (s.complete).src = s.src := rfl
@[simp] theorem State.complete_fb (s : State) : (s.complete).fb = s.fb := rfl
@[simp] theorem State.complete_ap (s : State) : (s.complete).ap = s.ap := rfl
@[simp] theorem State.complete_walk (s : State) : (s.complete).walk = none := rfl
@[simp] theorem State.complete_agenda (s : State) : (s.complete).agenda = s.agenda := rfl
@[simp] theorem State.complete_rdata (s : State) : (s.complete).rdata = s.rdata := rfl

/-! `clearStatus` -/

@[simp] theorem State.clearStatus_params (s : State) : (s.clearStatus).params = s.params := rfl
@[simp] theorem State.clearStatus_regs (s : State) : (s.clearStatus).regs = s.regs := rfl
@[simp] theorem State.clearStatus_status (s : State) : (s.clearStatus).status = { done := false, err := false, dropped := false, errCode := 0#4 } := rfl
@[simp] theorem State.clearStatus_eng (s : State) : (s.clearStatus).eng = s.eng := rfl
@[simp] theorem State.clearStatus_latch (s : State) : (s.clearStatus).latch = s.latch := rfl
@[simp] theorem State.clearStatus_apPresent (s : State) : (s.clearStatus).apPresent = s.apPresent := rfl
@[simp] theorem State.clearStatus_animDisable (s : State) : (s.clearStatus).animDisable = s.animDisable := rfl
@[simp] theorem State.clearStatus_src (s : State) : (s.clearStatus).src = s.src := rfl
@[simp] theorem State.clearStatus_fb (s : State) : (s.clearStatus).fb = s.fb := rfl
@[simp] theorem State.clearStatus_ap (s : State) : (s.clearStatus).ap = s.ap := rfl
@[simp] theorem State.clearStatus_walk (s : State) : (s.clearStatus).walk = s.walk := rfl
@[simp] theorem State.clearStatus_agenda (s : State) : (s.clearStatus).agenda = s.agenda := rfl
@[simp] theorem State.clearStatus_rdata (s : State) : (s.clearStatus).rdata = s.rdata := rfl

/-! `markDropped` -/

@[simp] theorem State.markDropped_params (s : State) : (s.markDropped).params = s.params := rfl
@[simp] theorem State.markDropped_regs (s : State) : (s.markDropped).regs = s.regs := rfl
@[simp] theorem State.markDropped_status (s : State) : (s.markDropped).status = { s.status with dropped := true } := rfl
@[simp] theorem State.markDropped_eng (s : State) : (s.markDropped).eng = s.eng := rfl
@[simp] theorem State.markDropped_latch (s : State) : (s.markDropped).latch = s.latch := rfl
@[simp] theorem State.markDropped_apPresent (s : State) : (s.markDropped).apPresent = s.apPresent := rfl
@[simp] theorem State.markDropped_animDisable (s : State) : (s.markDropped).animDisable = s.animDisable := rfl
@[simp] theorem State.markDropped_src (s : State) : (s.markDropped).src = s.src := rfl
@[simp] theorem State.markDropped_fb (s : State) : (s.markDropped).fb = s.fb := rfl
@[simp] theorem State.markDropped_ap (s : State) : (s.markDropped).ap = s.ap := rfl
@[simp] theorem State.markDropped_walk (s : State) : (s.markDropped).walk = s.walk := rfl
@[simp] theorem State.markDropped_agenda (s : State) : (s.markDropped).agenda = s.agenda := rfl
@[simp] theorem State.markDropped_rdata (s : State) : (s.markDropped).rdata = s.rdata := rfl

/-! `startDraw` -/

@[simp] theorem State.startDraw_params (s : State) (m : Mode) (z : BitVec 3) (r : Bool) : (s.startDraw m z r).params = s.params := rfl
@[simp] theorem State.startDraw_regs (s : State) (m : Mode) (z : BitVec 3) (r : Bool) : (s.startDraw m z r).regs = s.regs := rfl
@[simp] theorem State.startDraw_status (s : State) (m : Mode) (z : BitVec 3) (r : Bool) : (s.startDraw m z r).status = { s.status with done := false, err := false, errCode := 0#4 } := rfl
@[simp] theorem State.startDraw_eng (s : State) (m : Mode) (z : BitVec 3) (r : Bool) : (s.startDraw m z r).eng = .busy := rfl
@[simp] theorem State.startDraw_latch (s : State) (m : Mode) (z : BitVec 3) (r : Bool) : (s.startDraw m z r).latch = { mode := m, zoom := z, remapEn := r, anim := s.apPresent && !s.animDisable } := rfl
@[simp] theorem State.startDraw_apPresent (s : State) (m : Mode) (z : BitVec 3) (r : Bool) : (s.startDraw m z r).apPresent = s.apPresent := rfl
@[simp] theorem State.startDraw_animDisable (s : State) (m : Mode) (z : BitVec 3) (r : Bool) : (s.startDraw m z r).animDisable = s.animDisable := rfl
@[simp] theorem State.startDraw_src (s : State) (m : Mode) (z : BitVec 3) (r : Bool) : (s.startDraw m z r).src = s.src := rfl
@[simp] theorem State.startDraw_fb (s : State) (m : Mode) (z : BitVec 3) (r : Bool) : (s.startDraw m z r).fb = s.fb := rfl
@[simp] theorem State.startDraw_ap (s : State) (m : Mode) (z : BitVec 3) (r : Bool) : (s.startDraw m z r).ap = s.ap := rfl
@[simp] theorem State.startDraw_walk (s : State) (m : Mode) (z : BitVec 3) (r : Bool) : (s.startDraw m z r).walk = s.walk := rfl
@[simp] theorem State.startDraw_agenda (s : State) (m : Mode) (z : BitVec 3) (r : Bool) : (s.startDraw m z r).agenda = s.agenda := rfl
@[simp] theorem State.startDraw_rdata (s : State) (m : Mode) (z : BitVec 3) (r : Bool) : (s.startDraw m z r).rdata = s.rdata := rfl

/-! `applyReset` -/

@[simp] theorem State.applyReset_params (s : State) : (s.applyReset).params = s.params := rfl
@[simp] theorem State.applyReset_regs (s : State) : (s.applyReset).regs = Regs.zero := rfl
@[simp] theorem State.applyReset_status (s : State) : (s.applyReset).status = Status.zero := rfl
@[simp] theorem State.applyReset_eng (s : State) : (s.applyReset).eng = .idle := rfl
@[simp] theorem State.applyReset_latch (s : State) : (s.applyReset).latch = Latch.zero := rfl
@[simp] theorem State.applyReset_apPresent (s : State) : (s.applyReset).apPresent = s.apPresent := rfl
@[simp] theorem State.applyReset_animDisable (s : State) : (s.applyReset).animDisable = s.animDisable := rfl
@[simp] theorem State.applyReset_src (s : State) : (s.applyReset).src = s.src := rfl
@[simp] theorem State.applyReset_fb (s : State) : (s.applyReset).fb = s.fb := rfl
@[simp] theorem State.applyReset_ap (s : State) : (s.applyReset).ap = s.ap := rfl
@[simp] theorem State.applyReset_walk (s : State) : (s.applyReset).walk = none := rfl
@[simp] theorem State.applyReset_agenda (s : State) : (s.applyReset).agenda = s.agenda := rfl
@[simp] theorem State.applyReset_rdata (s : State) : (s.applyReset).rdata = s.rdata := rfl

/-! updates after one another -/

@[simp] theorem State.setWalk_setWalk (s : State) (v w : Walk) : (s.setWalk v).setWalk w = s.setWalk w := rfl
@[simp] theorem State.setWalk_raiseError (s : State) (w : Walk) (e : ErrorCode) :
    (s.setWalk w).raiseError e = s.raiseError e := rfl
@[simp] theorem State.setWalk_complete (s : State) (w : Walk) : (s.setWalk w).complete = s.complete := rfl

end Sys2Proof.Machine
end

