-- ==== Sys2Proof/Laws/Memory.lean ====
section
/-! SUPPORT. Laws/Memory.lean: reading after writing a sparse memory, and that every operation on one keeps the canonical
form. -/

namespace Sys2Proof.Machine

variable {α : Type} [DecidableEq α] {d : α} {n lo lo' i j : Nat} {l : List (Nat × α)} {u v : α}

theorem cellsWf_cons :
    cellsWf d n lo ((j, v) :: l) = true ↔ lo ≤ j ∧ j < n ∧ v ≠ d ∧ cellsWf d n (j + 1) l = true := by
  simp [cellsWf, and_assoc]

/-- A bound from below may be lowered. -/
theorem cellsWf_mono (h : cellsWf d n lo l = true) (hlo : lo' ≤ lo) : cellsWf d n lo' l = true := by
  cases l with
  | nil => rfl
  | cons e rest =>
    obtain ⟨j, v⟩ := e
    rw [cellsWf_cons] at h ⊢
    exact ⟨hlo.trans h.1, h.2⟩

/-- An index below every listed one reads as unlisted. -/
theorem cellRead_below (h : cellsWf d n lo l = true) (hi : i < lo) : cellRead d l i = d := by
  cases l with
  | nil => rfl
  | cons e rest =>
    obtain ⟨j, v⟩ := e
    have hj := (cellsWf_cons.1 h).1
    have h1 : i ≠ j := by omega
    have h2 : i < j := by omega
    simp [cellRead, h1, h2]

/-- Reading the index just written gives the value written. -/
theorem cellRead_cellWrite_same (h : cellsWf d n lo l = true) : cellRead d (cellWrite d l i v) i = v := by
  induction l generalizing lo with
  | nil => by_cases hv : v = d <;> simp [cellWrite, cellRead, hv]
  | cons e rest ih =>
    obtain ⟨j, u⟩ := e
    obtain ⟨_, _, _, hr⟩ := cellsWf_cons.1 h
    rcases Nat.lt_trichotomy i j with hij | rfl | hij
    · have hne : i ≠ j := by omega
      by_cases hv : v = d <;> simp [cellWrite, cellRead, hij, hv, hne]
    · by_cases hv : v = d
      · simp [cellWrite, hv, cellRead_below hr (Nat.lt_succ_self i)]
      · simp [cellWrite, cellRead, hv]
    · have h1 : ¬i < j := by omega
      have h2 : i ≠ j := by omega
      simp [cellWrite, cellRead, h1, h2, ih hr]

/-- Reading any other index gives what it gave before. -/
theorem cellRead_cellWrite_other (h : cellsWf d n lo l = true) (hne : j ≠ i) :
    cellRead d (cellWrite d l i v) j = cellRead d l j := by
  induction l generalizing lo with
  | nil =>
    by_cases hv : v = d <;> simp [cellWrite, cellRead, hv, hne]
  | cons e rest ih =>
    obtain ⟨k, u⟩ := e
    obtain ⟨_, _, _, hr⟩ := cellsWf_cons.1 h
    rcases Nat.lt_trichotomy i k with hik | rfl | hik
    · by_cases hv : v = d
      · simp [cellWrite, hik, hv]
      · by_cases hji : j < i
        · have h1 : j ≠ k := by omega
          have h2 : j < k := by omega
          simp [cellWrite, cellRead, hik, hv, hne, hji, h1, h2]
        · simp [cellWrite, cellRead, hik, hv, hne, hji]
    · by_cases hji : j < i
      · by_cases hv : v = d
        · simp [cellWrite, cellRead, hv, hne, hji, cellRead_below hr (by omega : j < i + 1)]
        · simp [cellWrite, cellRead, hv, hne, hji]
      · by_cases hv : v = d <;> simp [cellWrite, cellRead, hv, hne, hji]
    · have h1 : ¬i < k := by omega
      have h2 : i ≠ k := by omega
      simp [cellWrite, cellRead, h1, h2, ih hr]

/-- A write at an index that exists keeps the canonical form. -/
theorem cellsWf_cellWrite (h : cellsWf d n lo l = true) (hi : i < n) (hlo : lo ≤ i) :
    cellsWf d n lo (cellWrite d l i v) = true := by
  induction l generalizing lo with
  | nil =>
    by_cases hv : v = d
    · simp [cellWrite, hv, cellsWf]
    · simp [cellWrite, hv, cellsWf, hi, hlo]
  | cons e rest ih =>
    obtain ⟨j, u⟩ := e
    obtain ⟨h1, h2, h3, hr⟩ := cellsWf_cons.1 h
    rcases Nat.lt_trichotomy i j with hij | rfl | hij
    · by_cases hv : v = d
      · simpa [cellWrite, hij, hv] using h
      · simp only [cellWrite, hij, hv, if_true, if_false]
        exact cellsWf_cons.2 ⟨hlo, hi, hv, cellsWf_cons.2 ⟨hij, h2, h3, hr⟩⟩
    · by_cases hv : v = d
      · simpa [cellWrite, hv] using cellsWf_mono hr (by omega)
      · simpa [cellWrite, hv] using cellsWf_cons.2 ⟨h1, h2, hv, hr⟩
    · have h4 : ¬i < j := by omega
      have h5 : i ≠ j := by omega
      simpa [cellWrite, h4, h5] using cellsWf_cons.2 ⟨h1, h2, h3, ih hr (by omega)⟩

/-- Dropping the cells from `m` on keeps the canonical form, with `m` as the bound. -/
theorem cellsWf_cellsBelow (m : Nat) (h : cellsWf d n lo l = true) : cellsWf d m lo (cellsBelow m l) = true := by
  induction l generalizing lo with
  | nil => rfl
  | cons e rest ih =>
    obtain ⟨j, u⟩ := e
    obtain ⟨h1, _, h3, hr⟩ := cellsWf_cons.1 h
    by_cases hj : j < m
    · simpa [cellsBelow, List.filter_cons, hj] using cellsWf_cons.2 ⟨h1, hj, h3, ih hr⟩
    · simpa [cellsBelow, List.filter_cons, hj] using cellsWf_mono (ih hr) (by omega)

/-- Dropping the cells from `m` on leaves every cell below `m` as it was. -/
theorem cellRead_cellsBelow (m : Nat) (h : cellsWf d n lo l = true) (hi : i < m) :
    cellRead d (cellsBelow m l) i = cellRead d l i := by
  induction l generalizing lo with
  | nil => rfl
  | cons e rest ih =>
    obtain ⟨j, u⟩ := e
    obtain ⟨_, _, _, hr⟩ := cellsWf_cons.1 h
    by_cases hj : j < m
    · have hc : cellsBelow m ((j, u) :: rest) = (j, u) :: cellsBelow m rest := by simp [cellsBelow, hj]
      rw [hc]
      simp only [cellRead, ih hr]
    · have hc : cellsBelow m ((j, u) :: rest) = cellsBelow m rest := by simp [cellsBelow, hj]
      have h1 : i ≠ j := by omega
      have h2 : i < j := by omega
      rw [hc, ih hr]
      simp [cellRead, h1, h2, cellRead_below hr (by omega : i < j + 1)]

/-! ## The state's memories -/

theorem State.memWf_iff (s : State) : s.memWf = true ↔
    cellsWf unlistedByte s.params.srcSize 0 s.src = true ∧ cellsWf unlistedColour s.params.fbPixels 0 s.fb = true ∧
    cellsWf unlistedByte s.params.fbPixels 0 s.ap = true := by
  simp [State.memWf, and_assoc]

/-- The canonical form depends on the memories and their sizes only. -/
theorem State.memWf_congr {s t : State} (hp : t.params = s.params) (h1 : t.src = s.src) (h2 : t.fb = s.fb)
    (h3 : t.ap = s.ap) : t.memWf = s.memWf := by
  simp [State.memWf, hp, h1, h2, h3]

theorem State.setSrc_memWf {s : State} (h : s.memWf = true) {a : Nat} (ha : a < s.params.srcSize) (v : Byte) :
    (s.setSrc a v).memWf = true := by
  obtain ⟨h1, h2, h3⟩ := s.memWf_iff.1 h
  exact (State.memWf_iff _).2 ⟨cellsWf_cellWrite h1 ha (Nat.zero_le a), h2, h3⟩

theorem State.setFb_memWf {s : State} (h : s.memWf = true) {p : Nat} (hp : p < s.params.fbPixels) (c : Colour) :
    (s.setFb p c).memWf = true := by
  obtain ⟨h1, h2, h3⟩ := s.memWf_iff.1 h
  exact (State.memWf_iff _).2 ⟨h1, cellsWf_cellWrite h2 hp (Nat.zero_le p), h3⟩

theorem State.setAp_memWf {s : State} (h : s.memWf = true) {p : Nat} (hp : p < s.params.fbPixels) (v : Byte) :
    (s.setAp p v).memWf = true := by
  obtain ⟨h1, h2, h3⟩ := s.memWf_iff.1 h
  exact (State.memWf_iff _).2 ⟨h1, h2, cellsWf_cellWrite h3 hp (Nat.zero_le p)⟩

theorem State.resizePlanes_memWf {s : State} (h : s.memWf = true) (n : Nat) : (s.resizePlanes n).memWf = true := by
  obtain ⟨h1, h2, h3⟩ := s.memWf_iff.1 h
  exact (State.memWf_iff _).2 ⟨h1, cellsWf_cellsBelow n h2, cellsWf_cellsBelow n h3⟩

theorem State.setFb_fbAt_same {s : State} (h : s.memWf = true) (p : Nat) (c : Colour) : (s.setFb p c).fbAt p = c :=
  cellRead_cellWrite_same (s.memWf_iff.1 h).2.1

theorem State.setFb_fbAt_other {s : State} (h : s.memWf = true) {p q : Nat} (hq : q ≠ p) (c : Colour) :
    (s.setFb p c).fbAt q = s.fbAt q :=
  cellRead_cellWrite_other (s.memWf_iff.1 h).2.1 hq

theorem State.setAp_apAt_same {s : State} (h : s.memWf = true) (p : Nat) (v : Byte) : (s.setAp p v).apAt p = v :=
  cellRead_cellWrite_same (s.memWf_iff.1 h).2.2

theorem State.setAp_apAt_other {s : State} (h : s.memWf = true) {p q : Nat} (hq : q ≠ p) (v : Byte) :
    (s.setAp p v).apAt q = s.apAt q :=
  cellRead_cellWrite_other (s.memWf_iff.1 h).2.2 hq

theorem State.setSrc_srcAt_same {s : State} (h : s.memWf = true) (a : Nat) (v : Byte) : (s.setSrc a v).srcAt a = v :=
  cellRead_cellWrite_same (s.memWf_iff.1 h).1

theorem State.setSrc_srcAt_other {s : State} (h : s.memWf = true) {a b : Nat} (hb : b ≠ a) (v : Byte) :
    (s.setSrc a v).srcAt b = s.srcAt b :=
  cellRead_cellWrite_other (s.memWf_iff.1 h).1 hb

@[simp] theorem State.setFb_apAt (s : State) (p q : Nat) (c : Colour) : (s.setFb p c).apAt q = s.apAt q := rfl
@[simp] theorem State.setAp_fbAt (s : State) (p q : Nat) (v : Byte) : (s.setAp p v).fbAt q = s.fbAt q := rfl
@[simp] theorem State.setFb_srcAt (s : State) (p a : Nat) (c : Colour) : (s.setFb p c).srcAt a = s.srcAt a := rfl
@[simp] theorem State.setAp_srcAt (s : State) (p a : Nat) (v : Byte) : (s.setAp p v).srcAt a = s.srcAt a := rfl

/-- Memory right after power-on is in its canonical form, whatever the sizes of the memories are. -/
theorem State.reset_memWf : State.reset.memWf = true := by
  simp [State.memWf, State.reset, cellsWf]

end Sys2Proof.Machine
end

