-- ==== Sys2Proof/Laws/Compositor.lean ====
section
/-! SUPPORT. Laws/Compositor.lean: what a pixel rule can do, once for all modes and both paths, and one induction over the
write phase. -/

namespace Sys2Proof.Machine

/-- What `PixelRule` can do at a cell: nothing; write FB only, on the RGB-only path; on the animated path, write both
planes, or AP only. -/
theorem pixelRule_cases (mode : Mode) (anim : Bool) (p : Nat) (c : Colour) (m : Byte) (s : State) :
    pixelRule mode anim p c m s = s ∨
    (anim = false ∧ ∃ c', pixelRule mode anim p c m s = s.setFb p c') ∨
    (anim = true ∧ ∃ c' v, pixelRule mode anim p c m s = (s.setFb p c').setAp p v) ∨
    (anim = true ∧ ∃ v, pixelRule mode anim p c m s = s.setAp p v) := by
  have put : ∀ c' v, s.putPixel anim p c' v = s ∨ (anim = false ∧ ∃ c'', s.putPixel anim p c' v = s.setFb p c'') ∨
      (anim = true ∧ ∃ c'' v', s.putPixel anim p c' v = (s.setFb p c'').setAp p v') ∨
      (anim = true ∧ ∃ v', s.putPixel anim p c' v = s.setAp p v') := by
    intro c' v
    cases anim
    · exact .inr (.inl ⟨rfl, c', rfl⟩)
    · exact .inr (.inr (.inl ⟨rfl, c', v, rfl⟩))
  have literal : ∀ lit, pixelLiteral anim p c lit s = s ∨ (anim = false ∧ ∃ c'', pixelLiteral anim p c lit s = s.setFb p c'') ∨
      (anim = true ∧ ∃ c'' v', pixelLiteral anim p c lit s = (s.setFb p c'').setAp p v') ∨
      (anim = true ∧ ∃ v', pixelLiteral anim p c lit s = s.setAp p v') := by
    intro lit
    unfold pixelLiteral
    split <;> exact put _ _
  have remapped : pixelRemapped anim p c m s = s ∨ (anim = false ∧ ∃ c'', pixelRemapped anim p c m s = s.setFb p c'') ∨
      (anim = true ∧ ∃ c'' v', pixelRemapped anim p c m s = (s.setFb p c'').setAp p v') ∨
      (anim = true ∧ ∃ v', pixelRemapped anim p c m s = s.setAp p v') := by
    unfold pixelRemapped
    split
    · exact .inl rfl
    · split <;> exact put _ _
  cases mode
  case normal => simp only [pixelRule, pixelNormal]; split <;> exact put _ _
  case colourRemap =>
    simp only [pixelRule, pixelColourRemap]
    split
    · exact literal _
    · exact remapped
  case crashRemap =>
    simp only [pixelRule, pixelCrashRemap]
    split
    · exact literal _
    · exact remapped
  case transparent => simp only [pixelRule, pixelTransparent]; split <;> exact put _ _
  case transparentRemap =>
    cases anim
    · exact .inr (.inl ⟨rfl, _, rfl⟩)
    · refine .inr (.inr (.inr ⟨rfl, ?_⟩))
      simp only [pixelRule, pixelTransparentRemap, if_true]
      split <;> exact ⟨_, rfl⟩
  case blackRemap => exact put _ _

/-- A pixel rule changes FB and AP only. -/
theorem pixelRule_frame (mode : Mode) (anim : Bool) (p : Nat) (c : Colour) (m : Byte) (s : State) :
    pixelRule mode anim p c m s =
      { s with fb := (pixelRule mode anim p c m s).fb, ap := (pixelRule mode anim p c m s).ap } := by
  rcases pixelRule_cases mode anim p c m s with h | ⟨_, _, h⟩ | ⟨_, _, _, h⟩ | ⟨_, _, h⟩ <;> rw [h] <;> rfl

/-- A pixel rule at a cell that exists keeps the memories in their canonical form. -/
theorem pixelRule_memWf {s : State} (h : s.memWf = true) {p : Nat} (hp : p < s.params.fbPixels) (mode : Mode)
    (anim : Bool) (c : Colour) (m : Byte) : (pixelRule mode anim p c m s).memWf = true := by
  rcases pixelRule_cases mode anim p c m s with e | ⟨_, c', e⟩ | ⟨_, c', v, e⟩ | ⟨_, v, e⟩ <;> rw [e]
  · exact h
  · exact State.setFb_memWf h hp c'
  · exact State.setAp_memWf (State.setFb_memWf h hp c') hp v
  · exact State.setAp_memWf h hp v

/-- A clip pixel changes FB and AP only. -/
theorem writeClipPixel_frame (rows : List (List Pix)) (y x : Nat) (s : State) :
    writeClipPixel rows y x s =
      { s with fb := (writeClipPixel rows y x s).fb, ap := (writeClipPixel rows y x s).ap } := by
  unfold writeClipPixel
  split
  · exact pixelRule_frame _ _ _ _ _ s
  · rfl
  · rfl

/-- Induction over the write phase: what holds before it, and is kept by every clip pixel in a state that differs from the
first one in FB and AP only, holds after it. -/
theorem writePhase_induction {P : State → Prop} (s : State) (rows : List (List Pix)) (h0 : P s)
    (hstep : ∀ t y x, t = { s with fb := t.fb, ap := t.ap } → y < s.regs.height.toNat → x < s.regs.width.toNat →
      P t → P (writeClipPixel rows y x t)) :
    P (s.writePhase rows) ∧
      s.writePhase rows = { s with fb := (s.writePhase rows).fb, ap := (s.writePhase rows).ap } := by
  have frame : ∀ t y x, t = { s with fb := t.fb, ap := t.ap } →
      writeClipPixel rows y x t =
        { s with fb := (writeClipPixel rows y x t).fb, ap := (writeClipPixel rows y x t).ap } := by
    intro t y x ht
    have := writeClipPixel_frame rows y x t
    rw [this]
    rw [ht]
  have row : ∀ k y t, y < s.regs.height.toNat → k ≤ s.regs.width.toNat → P t → t = { s with fb := t.fb, ap := t.ap } →
      P (writeRow rows y k t) ∧ writeRow rows y k t = { s with fb := (writeRow rows y k t).fb, ap := (writeRow rows y k t).ap } := by
    intro k y t hy hk hP ht
    induction k with
    | zero => exact ⟨hP, ht⟩
    | succ k ih =>
      obtain ⟨h1, h2⟩ := ih (by omega)
      exact ⟨hstep _ y k h2 hy (by omega) h1, frame _ y k h2⟩
  have rws : ∀ k, k ≤ s.regs.height.toNat → P (writeRows rows s.regs.width.toNat k s) ∧
      writeRows rows s.regs.width.toNat k s =
        { s with fb := (writeRows rows s.regs.width.toNat k s).fb, ap := (writeRows rows s.regs.width.toNat k s).ap } := by
    intro k hk
    induction k with
    | zero => exact ⟨h0, rfl⟩
    | succ k ih =>
      obtain ⟨h1, h2⟩ := ih (by omega)
      exact row _ k _ (by omega) le_rfl h1 h2
  exact rws _ le_rfl

/-- The write phase changes FB and AP only. -/
theorem writePhase_frame (s : State) (rows : List (List Pix)) :
    s.writePhase rows = { s with fb := (s.writePhase rows).fb, ap := (s.writePhase rows).ap } :=
  (writePhase_induction (P := fun _ => True) s rows trivial fun _ _ _ _ _ _ _ => trivial).2

/-- A clip cell exists when the destination rectangle is legal (R143). -/
theorem State.clipCell_lt {s : State} (h : s.dstLegal = true) {y x : Nat} (hy : y < s.regs.height.toNat)
    (hx : x < s.regs.width.toNat) : s.clipCell y x < s.params.fbPixels := by
  simp only [State.dstLegal, Bool.and_eq_true, decide_eq_true_eq] at h
  have : y * s.regs.dstPitch.toNat ≤ (s.regs.height.toNat - 1) * s.regs.dstPitch.toNat :=
    Nat.mul_le_mul_right _ (by omega)
  unfold State.clipCell
  omega

/-- The write phase of a legal destination keeps the memories in their canonical form. -/
theorem writePhase_memWf {s : State} (h : s.memWf = true) (hd : s.dstLegal = true) (rows : List (List Pix)) :
    (s.writePhase rows).memWf = true := by
  refine (writePhase_induction (P := fun t => t.memWf = true) s rows h ?_).1
  intro t y x ht hy hx hP
  unfold writeClipPixel
  split
  · refine pixelRule_memWf hP ?_ _ _ _ _
    rw [ht]
    exact State.clipCell_lt hd hy hx
  · exact hP
  · exact hP

end Sys2Proof.Machine
end

