-- ==== Sys2Proof/Laws/Engine.lean ====
section
/-! SUPPORT. Laws/Engine.lean: what each shared operation of the commands, the records, the register window and the walk
can do, said once. -/

namespace Sys2Proof.Machine

/-! ## Commands -/

theorem State.busy_iff (s : State) : s.busy = true ↔ s.eng = .busy := by simp [State.busy]

theorem State.not_busy_iff (s : State) : s.busy = false ↔ s.eng = .idle := by
  cases h : s.eng <;> simp [State.busy, h]

/-- A START is dropped while BUSY and accepted while IDLE. -/
theorem State.startOrDrop_cases (s : State) (m : Mode) (z : BitVec 3) (r : Bool) :
    (s.busy = true ∧ s.startOrDrop m z r = s.markDropped) ∨
    (s.busy = false ∧ s.startOrDrop m z r = s.startDraw m z r) := by
  cases h : s.busy <;> simp [State.startOrDrop, h]

/-- A register write changes the registers only, and nothing while BUSY. -/
theorem State.regWrite_cases (s : State) (off : BitVec 8) (size : Access) (v : Word) :
    s.regWrite off size v = s ∨
    (s.busy = false ∧ ∃ name, regOfAccess off size = some name ∧
      s.regWrite off size v = { s with regs := s.regs.write v name }) := by
  unfold State.regWrite
  split
  · rename_i name h
    cases hb : s.busy
    · exact .inr ⟨rfl, name, h, by simp⟩
    · exact .inl (by simp)
  · exact .inl rfl

/-- The register of an offset is found again at that offset. -/
theorem regAt_offset (name : RegName) : regAt name.offset = some name := by cases name <;> rfl

/-- A register is found only at its own offset. -/
theorem offset_of_regAt {off : BitVec 8} {name : RegName} (h : regAt off = some name) : off = name.offset := by
  apply BitVec.eq_of_toNat_eq
  unfold regAt at h
  split at h <;> cases h <;> assumption

/-! ## Records -/

theorem State.openRow_eq_some {s : State} {w : Walk} :
    s.openRow = some w ↔ s.walk = some w ∧ w.phase = .records := by
  unfold State.openRow
  cases hw : s.walk with
  | none => simp
  | some u =>
    by_cases hp : u.phase = .records
    · simp only [hp, if_true, Option.some.injEq]
      exact ⟨fun h => ⟨h, h ▸ hp⟩, fun h => h.1⟩
    · simp only [hp, if_false, reduceCtorEq, Option.some.injEq, false_iff]
      rintro ⟨rfl, h⟩
      exact hp h

/-- A record answers a next state only in an open row, and then it is what the record does there. -/
theorem State.onOpenRow_next {s t : State} {f : Walk → State} :
    s.onOpenRow f = .next t ↔ ∃ w, s.walk = some w ∧ w.phase = .records ∧ t = f w := by
  unfold State.onOpenRow
  cases h : s.openRow with
  | none =>
    simp only [reduceCtorEq, false_iff]
    rintro ⟨w, h1, h2, -⟩
    rw [State.openRow_eq_some.2 ⟨h1, h2⟩] at h
    cases h
  | some w =>
    obtain ⟨h1, h2⟩ := State.openRow_eq_some.1 h
    constructor
    · intro e
      cases e
      exact ⟨w, h1, h2, rfl⟩
    · rintro ⟨u, h3, -, rfl⟩
      rw [h1] at h3
      cases h3
      rfl

theorem State.onOpenRow_of_row {s : State} {w : Walk} (h1 : s.walk = some w) (h2 : w.phase = .records)
    (f : Walk → State) : s.onOpenRow f = .next (f w) :=
  State.onOpenRow_next.2 ⟨w, h1, h2, rfl⟩

/-- A drawable pixel is decoded exactly when its colour record is inside the colour scanline and SRC and is not
transparent. -/
theorem State.drawnPixel_eq_ok {s : State} {w : Walk} {m : Byte} {k : Nat} {p : Pix} :
    s.drawnPixel w m k = .ok p ↔
      w.pc + 4 * k + 4 ≤ w.endc ∧ s.inSrc (w.pc + 4 * k) 4 = true ∧ (s.srcColour (w.pc + 4 * k)).a ≠ 0#8 ∧
      p = .draw (s.srcColour (w.pc + 4 * k)) m := by
  unfold State.drawnPixel
  by_cases h1 : w.endc < w.pc + 4 * k + 4
  · have h1' : ¬ w.pc + 4 * k + 4 ≤ w.endc := by omega
    simp [h1, h1']
  · have h1' : w.pc + 4 * k + 4 ≤ w.endc := by omega
    cases h2 : s.inSrc (w.pc + 4 * k) 4
    · simp [h1]
    · by_cases h3 : (s.srcColour (w.pc + 4 * k)).a = 0#8
      · simp [h1, h3]
      · simp [h1, h1', h3, eq_comm]

/-- A drawable run gives one pixel for each visible column. -/
theorem State.drawnPixels_length {s : State} {w : Walk} {m : Byte} {count k : Nat} {ps : List Pix}
    (h : s.drawnPixels w m count k = .ok ps) : ps.length = count := by
  induction count generalizing k ps with
  | zero => cases h; rfl
  | succ n ih =>
    simp only [State.drawnPixels] at h
    split at h
    · cases h
    · split at h
      · cases h
      · rename_i qs hq
        cases h
        simp [ih hq]

/-- What a record of an open row can do: raise an error, or give its visible columns their values and go on. -/
theorem exec_record_cases {s : State} {w : Walk} (h1 : s.walk = some w) (h2 : w.phase = .records) (x : Word) :
    (∃ e, exec (decodeRec x) s = .next (s.raiseError e)) ∨
    (∃ n pc ps, n ≠ 0#16 ∧ ps.length = s.visibleCount w n ∧
      exec (decodeRec x) s = .next (s.setWalk (Walk.cover { w with pc := pc } n ps))) := by
  unfold decodeRec
  dsimp only
  split
  · rename_i hc
    by_cases hn : x.extractLsb' 16 16 = 0#16
    · exact .inl ⟨.streamZeroRun, by simp [exec, execSkipRec, State.onOpenRow_of_row h1 h2, hn]⟩
    · exact .inr ⟨x.extractLsb' 16 16, w.pc, _, hn, List.length_replicate,
        by simp only [exec, execSkipRec, State.onOpenRow_of_row h1 h2, hn, if_false]; rfl⟩
  · split
    · by_cases hn : x.extractLsb' 16 16 = 0#16
      · exact .inl ⟨.streamZeroRun, by simp [exec, execDrawRec, State.onOpenRow_of_row h1 h2, hn]⟩
      · cases hd : s.drawnPixels w (x.extractLsb' 0 8) (s.visibleCount w (x.extractLsb' 16 16)) (s.visibleFrom w) with
        | error e => exact .inl ⟨e, by simp [exec, execDrawRec, State.onOpenRow_of_row h1 h2, hn, hd]⟩
        | ok ps =>
          exact .inr ⟨x.extractLsb' 16 16, _, ps, hn, State.drawnPixels_length hd,
            by simp only [exec, execDrawRec, State.onOpenRow_of_row h1 h2, hn, hd, if_false]; rfl⟩
    · exact .inl ⟨.streamClass, by simp [exec, execReservedRec, State.onOpenRow_of_row h1 h2]⟩

/-! ## The parts of the commit step -/

/-- What the start of the commit step can do: raise an error, complete an empty clip, or start the walk when every check
of R143 holds. -/
theorem State.beginCommit_cases (s : State) :
    (∃ e, s.beginCommit = s.raiseError e) ∨
    (s.emptyClip = true ∧ s.beginCommit = s.complete) ∨
    (s.latch.zoom.toNat < s.params.nzoom ∧ s.emptyClip = false ∧ s.dstLegal = true ∧
      (s.latch.mode.usesRemap = true → s.latch.remapEn = true ∧ s.inSrc s.regs.remapBase.toNat 256 = true) ∧
      s.inSrc s.tableEntry 8 = true ∧ s.beginCommit = s.setWalk s.startWalk) := by
  unfold State.beginCommit
  split
  · exact .inl ⟨_, rfl⟩
  · rename_i hz
    split
    · exact .inl ⟨_, rfl⟩
    · rename_i hr
      split
      · rename_i he
        exact .inr (.inl ⟨he, rfl⟩)
      · rename_i he
        split
        · exact .inl ⟨_, rfl⟩
        · rename_i hd
          split
          · exact .inl ⟨_, rfl⟩
          · rename_i hs
            split
            · exact .inl ⟨_, rfl⟩
            · rename_i ht
              refine .inr (.inr ⟨by omega, by simpa using he, by simpa using hd, fun hu => ?_, by simpa using ht, rfl⟩)
              exact ⟨by simpa [hu] using hr, by simpa [hu] using hs⟩

/-- The bytes of SRC that a record is decoded from, as one word. -/
def State.recordWord (s : State) (addr : Nat) : Word :=
  wordOfBytes (s.srcAt addr) (s.srcAt (addr + 1)) (s.srcAt (addr + 2)) (s.srcAt (addr + 3))

/-- What the fetch of a record can do: raise an error, or run the record at `pi`, which lies in the scanline and in SRC. -/
theorem State.fetchRecord_cases (s : State) (w : Walk) :
    (∃ e, s.fetchRecord w = .settled (.next (s.raiseError e))) ∨
    (w.pi + 4 ≤ w.endi ∧ s.inSrc w.pi 4 = true ∧
      s.fetchRecord w = .run (decodeRec (s.recordWord w.pi)) (s.setWalk { w with pi := w.pi + 4 })) := by
  unfold State.fetchRecord
  by_cases h1 : w.endi < w.pi + 4
  · exact .inl ⟨_, by simp only [h1, if_true]; rfl⟩
  · cases h2 : s.inSrc w.pi 4
    · exact .inl ⟨.srcRange, by simp [h1]⟩
    · refine .inr ⟨by omega, rfl, ?_⟩
      simp [h1, State.srcBytes, decode, decodeWord, State.recordWord]

/-- The step of a machine whose walk is in progress does not look at the agenda. -/
theorem step_of_walk {s : State} {w : Walk} (h : s.walk = some w) :
    step s = (s.continueWalk w).outcome := by
  simp [step, State.nextEvent, h]

/-- The step of a machine with no walk takes the agenda's first entry. -/
theorem step_of_action {s : State} {a : Action} {rest : List Action} (hw : s.walk = none) (ha : s.agenda = a :: rest) :
    step s = (State.act { s with agenda := rest } a).outcome := by
  simp [step, State.nextEvent, hw, ha, Event.outcome]

/-- With no walk and an empty agenda, the engine has its turn. -/
theorem step_of_empty_agenda {s : State} (hw : s.walk = none) (ha : s.agenda = []) : step s = .next s.engineTurn := by
  simp [step, State.nextEvent, hw, ha, Event.outcome]

/-- What a part of the commit step in progress can do. It always answers a next state: an error; the next place of the
walk, from which the earlier place can be read; or, when every row is decoded, the write phase and the end. -/
theorem step_walk_cases {s : State} {w : Walk} (h : s.walk = some w) :
    (∃ e, step s = .next (s.raiseError e)) ∨
    (w.phase = .skipRows 0 ∧ step s = .next (s.setWalk { w with phase := .rowStart })) ∨
    (∃ left, w.phase = .skipRows (left + 1) ∧ s.headersInSrc w = true ∧
      step s = .next (s.setWalk { w with phase := .skipRows left, hc := s.nextScanline w.hc,
                                         hi := s.nextScanline w.hi })) ∨
    (w.phase = .rowStart ∧ w.y < s.regs.height.toNat ∧ s.headersInSrc w = true ∧
      step s = .next (s.setWalk { w with phase := .records, endc := s.nextScanline w.hc, endi := s.nextScanline w.hi,
                                         pc := w.hc + 4, pi := w.hi + 4, col := 0, row := [] })) ∨
    (w.phase = .rowStart ∧ s.regs.height.toNat ≤ w.y ∧ step s = .next (s.writePhase w.rows).complete) ∨
    (w.phase = .records ∧ w.col < s.lim ∧ ∃ n pc ps, n ≠ 0#16 ∧ ps.length = s.visibleCount w n ∧
      step s = .next (s.setWalk (Walk.cover { w with pc := pc, pi := w.pi + 4 } n ps))) ∨
    (w.phase = .records ∧ s.lim ≤ w.col ∧ step s = .next (s.setWalk w.finishRow)) := by
  rw [step_of_walk h]
  unfold State.continueWalk
  cases hp : w.phase with
  | skipRows left =>
    cases left with
    | zero => exact .inr (.inl ⟨rfl, rfl⟩)
    | succ left =>
      cases hh : s.headersInSrc w
      · exact .inl ⟨.srcRange, by simp [State.skipRow, hh, Event.outcome]⟩
      · exact .inr (.inr (.inl ⟨left, rfl, rfl, by simp [State.skipRow, hh, Event.outcome]⟩))
  | rowStart =>
    by_cases hy : w.y < s.regs.height.toNat
    · cases hh : s.headersInSrc w
      · exact .inl ⟨.srcRange, by simp [State.startRow, hh, hy, Event.outcome]⟩
      · exact .inr (.inr (.inr (.inl ⟨rfl, hy, rfl, by simp [State.startRow, hh, hy, Event.outcome]⟩)))
    · exact .inr (.inr (.inr (.inr (.inl ⟨rfl, by omega, by simp [hy, Event.outcome]⟩))))
  | records =>
    by_cases hc : w.col < s.lim
    · rw [if_pos hc]
      rcases s.fetchRecord_cases w with ⟨e, he⟩ | ⟨_, _, he⟩
      · exact .inl ⟨e, by rw [he]; rfl⟩
      · rw [he]
        rcases exec_record_cases (s := s.setWalk { w with pi := w.pi + 4 }) rfl hp (s.recordWord w.pi) with
          ⟨e, hx⟩ | ⟨n, pc, ps, hn, hl, hx⟩
        · exact .inl ⟨e, hx⟩
        · exact .inr (.inr (.inr (.inr (.inr (.inl ⟨rfl, hc, n, pc, ps, hn, hl, by simpa only [Event.outcome, hp, State.setWalk_setWalk] using hx⟩)))))
    · exact .inr (.inr (.inr (.inr (.inr (.inr ⟨rfl, by omega, by simp [hc, Event.outcome]⟩)))))

/-! ## The host's and the environment's moves -/

/-- A host memory access that answers a next state was made while IDLE, at a cell that exists. -/
theorem State.hostAccess_next {s t u : State} {missing : Option Fault} :
    s.hostAccess missing t = .next u ↔ s.busy = false ∧ missing = none ∧ u = t := by
  unfold State.hostAccess
  cases hb : s.busy <;> cases missing <;> simp [eq_comm]

/-- An environment change that answers a next state was made while IDLE. -/
theorem State.environmentChange_next {s u : State} {o : Outcome} :
    s.environmentChange o = .next u ↔ s.busy = false ∧ o = .next u := by
  unfold State.environmentChange
  cases hb : s.busy <;> simp

end Sys2Proof.Machine
end

