-- ==== Sys2Proof/Laws/PerInstr.lean ====
section
/-! SUPPORT. Laws/PerInstr.lean: statements for all instructions, one lemma per constructor. The family TableRow: the word
of every well-formed instruction lies in its row of spec/opcode_table.json, under the row's mask and match value. -/

namespace Sys2Proof.Laws

/-- The "mask" of an instruction's row of spec/opcode_table.json. -/
def tableMask : Instr → Word
  | .drawNormal _ _ => 0xFFFFE8FF#32
  | .drawColourRemap _ _ => 0xFFFFE8FF#32
  | .drawCrashRemap _ _ => 0xFFFFE8FF#32
  | .drawTransparent _ _ => 0xFFFFE8FF#32
  | .drawTransparentRemap _ _ => 0xFFFFE8FF#32
  | .drawBlackRemap _ _ => 0xFFFFE8FF#32
  | .clear _ _ _ => 0xFFFFE88F#32
  | .nop _ _ _ => 0xFFFFE88F#32
  | .illegalCmd _ => 0x00000000#32
  | .skipRec _ _ => 0x0000FF00#32
  | .drawRec _ _ => 0x0000FF00#32
  | .reservedRec _ _ _ => 0x00000000#32

/-- The "match" of an instruction's row of spec/opcode_table.json. -/
def tableMatch : Instr → Word
  | .drawNormal _ _ => 0x00000001#32
  | .drawColourRemap _ _ => 0x00000011#32
  | .drawCrashRemap _ _ => 0x00000021#32
  | .drawTransparent _ _ => 0x00000031#32
  | .drawTransparentRemap _ _ => 0x00000041#32
  | .drawBlackRemap _ _ => 0x00000051#32
  | .clear _ _ _ => 0x00000002#32
  | .nop _ _ _ => 0x00000000#32
  | .illegalCmd _ => 0x00000000#32
  | .skipRec _ _ => 0x0000FF00#32
  | .drawRec _ _ => 0x00000000#32
  | .reservedRec _ _ _ => 0x00000000#32

/-- The word of the instruction has the bits its row of the opcode table fixes (R99). -/
def TableRow.Statement (i : Instr) : Prop := i.wellFormed = true → encode i &&& tableMask i = tableMatch i

theorem TableRow.drawNormal (z : BitVec 3) (r : Bool) : TableRow.Statement (.drawNormal z r) := by
  intro _; revert z r; decide

theorem TableRow.drawColourRemap (z : BitVec 3) (r : Bool) : TableRow.Statement (.drawColourRemap z r) := by
  intro _; revert z r; decide

theorem TableRow.drawCrashRemap (z : BitVec 3) (r : Bool) : TableRow.Statement (.drawCrashRemap z r) := by
  intro _; revert z r; decide

theorem TableRow.drawTransparent (z : BitVec 3) (r : Bool) : TableRow.Statement (.drawTransparent z r) := by
  intro _; revert z r; decide

theorem TableRow.drawTransparentRemap (z : BitVec 3) (r : Bool) : TableRow.Statement (.drawTransparentRemap z r) := by
  intro _; revert z r; decide

theorem TableRow.drawBlackRemap (z : BitVec 3) (r : Bool) : TableRow.Statement (.drawBlackRemap z r) := by
  intro _; revert z r; decide

theorem TableRow.clear (m z : BitVec 3) (r : Bool) : TableRow.Statement (.clear m z r) := by
  intro _; revert m z r; decide

theorem TableRow.nop (m z : BitVec 3) (r : Bool) : TableRow.Statement (.nop m z r) := by
  intro _; revert m z r; decide

theorem TableRow.illegalCmd (w : Word) : TableRow.Statement (.illegalCmd w) := by
  intro _; simp [tableMask, tableMatch]

/-- The class byte of a record's word, and nothing else, is left under the mask of its row. -/
theorem encodeRec_and_classMask (cls m : Byte) (n : Half) :
    encodeRec cls m n &&& 0x0000FF00#32 = 0#16 ++ cls ++ 0#8 := by
  have mask : (0x0000FF00#32 : Word) = 0#16 ++ 0xFF#8 ++ 0#8 := by decide
  have ones : cls &&& 0xFF#8 = cls := by
    have : (0xFF#8 : Byte) = BitVec.allOnes 8 := by decide
    rw [this, BitVec.and_allOnes]
  rw [mask, encodeRec, BitVec.and_append, BitVec.and_append, ones]
  simp

theorem TableRow.skipRec (m : Byte) (n : Half) : TableRow.Statement (.skipRec m n) := by
  intro _; exact encodeRec_and_classMask 0xFF#8 m n

theorem TableRow.drawRec (m : Byte) (n : Half) : TableRow.Statement (.drawRec m n) := by
  intro _; exact encodeRec_and_classMask 0x00#8 m n

theorem TableRow.reservedRec (cls m : Byte) (n : Half) : TableRow.Statement (.reservedRec cls m n) := by
  intro _; simp [tableMask, tableMatch]

end Sys2Proof.Laws
end

