-- ==== Sys2Proof/Tests/Slice0.lean ====
section
/-! SUPPORT. Slice0.lean: the model's own tests, each on words and small states, with results from spec/ (the vectors of
95_test_vectors.md where one is named), and a witness for the hypotheses of each statement of
Certificates/Slice0/Obligations.lean that has any. -/

namespace Sys2Proof.Tests

open Sys2Proof Sys2Proof.Machine

/-! ## Helpers -/

/-- A colour from its four lanes. -/
def rgba (r g b a : Byte) : Colour := { r := r, g := g, b := b, a := a }

/-- A test of the next state of a step; a stop fails it. -/
def next? (o : Outcome) (p : State → Bool) : Bool :=
  match o with
  | .next t => p t
  | .fault _ => false
  | .refused _ => false

/-- An idle block: 128 bytes of SRC, 8 pixels, a plane attached, and two palette entries of TPAL (95_test_vectors 1). -/
def small : State :=
  { params := { nzoom := 6, srcSize := 128, fbPixels := 8, palLookup := [(4, rgba 4 0 251 255), (43, rgba 43 0 212 255)],
                palNearest := [(Colour.key (rgba 10 20 30 255), 10#8)] },
    regs := Regs.zero, status := Status.zero, eng := .idle, latch := Latch.zero, apPresent := true, animDisable := false,
    src := [], fb := [(0, rgba 10 20 30 255), (1, rgba 100 150 200 255)], ap := [(1, 42#8)], walk := none, agenda := [],
    rdata := .none }

/-- `small` with a 1 by 1 DRAW of a mode accepted on the animated path, its destination cell `p`. -/
def drawing (mode : Mode) (p : Word) : State :=
  { small with eng := .busy, latch := { mode := mode, zoom := 0#3, remapEn := true, anim := true },
               regs := { Regs.zero with width := 1#16, height := 1#16, dstOff := p } }

/-- `drawing` at the end of its walk, its one pixel decoded. -/
def ready (mode : Mode) (p : Word) (px : Pix) : State :=
  { drawing mode p with
      walk := some
        { phase := .rowStart, hc := 0, hi := 0, endc := 0, endi := 0, pc := 0, pi := 0, col := 0, y := 1, rows := [[px]],
          row := [] } }

/-- A walk with a row open: the colour records are at 64..71, the index records at 80..87. -/
def openWalk : Walk :=
  { phase := .records, hc := 60, hi := 76, endc := 72, endi := 88, pc := 64, pi := 80, col := 0, y := 0, rows := [],
    row := [] }

/-- A Normal DRAW of two columns from sprite column 1 on, with a row open: the colour record of column 1 is opaque, that of
column 0 is not drawable, and the index record says two drawable pixels of index 7. -/
def rowOpen : State :=
  { drawing .normal 0#32 with
      regs := { Regs.zero with skipLeft := 1#16, width := 2#16, height := 1#16 },
      src := [(68, 200#8), (69, 100#8), (70, 50#8), (71, 255#8), (80, 7#8), (82, 2#8)],
      walk := some openWalk }

/-- `rowOpen` with another walk. -/
def rowOpenAt (w : Walk) : State := { rowOpen with walk := some w }

/-! ## Well-formed terms -/

theorem test_wf_illegal_words :
    (Instr.illegalCmd 0x00000003#32).wellFormed = true ∧ (Instr.illegalCmd 0x00000080#32).wellFormed = true ∧
    (Instr.illegalCmd 0x00000061#32).wellFormed = true ∧ (Instr.illegalCmd 0x00002001#32).wellFormed = true := by decide

theorem test_wf_refuses_legal_word_as_illegal :
    (Instr.illegalCmd 0x00000001#32).wellFormed = false ∧ (Instr.illegalCmd 0x00000002#32).wellFormed = false ∧
    (Instr.illegalCmd 0x00000570#32).wellFormed = false := by decide

theorem test_wf_refuses_class_that_is_not_reserved :
    (Instr.reservedRec 0x00#8 1#8 1#16).wellFormed = false ∧ (Instr.reservedRec 0xFF#8 1#8 1#16).wellFormed = false ∧
    (Instr.reservedRec 0x01#8 1#8 1#16).wellFormed = true := by decide

/-! ## Decoding: words written out from 30_encoding.md (R80, R81, R91): for CMD the bits 31:13, 12, 11, 10:8, 7, 6:4, 3:2,
1 and 0, for a record N, class and m -/

theorem test_decode_draw_normal :
    decodeWord .cmd (0b0000000000000000000#19 ++ 1#1 ++ 0#1 ++ 0b101#3 ++ 0#1 ++ 0b000#3 ++ 0#2 ++ 0#1 ++ 1#1)
      = .drawNormal 5#3 true := by decide

theorem test_decode_draw_colour_remap :
    decodeWord .cmd (0b0000000000000000000#19 ++ 1#1 ++ 0#1 ++ 0b010#3 ++ 0#1 ++ 0b001#3 ++ 0#2 ++ 0#1 ++ 1#1)
      = .drawColourRemap 2#3 true := by decide

theorem test_decode_draw_crash_remap :
    decodeWord .cmd (0b0000000000000000000#19 ++ 0#1 ++ 0#1 ++ 0b111#3 ++ 0#1 ++ 0b010#3 ++ 0#2 ++ 0#1 ++ 1#1)
      = .drawCrashRemap 7#3 false := by decide

theorem test_decode_draw_transparent :
    decodeWord .cmd (0b0000000000000000000#19 ++ 0#1 ++ 0#1 ++ 0b001#3 ++ 0#1 ++ 0b011#3 ++ 0#2 ++ 0#1 ++ 1#1)
      = .drawTransparent 1#3 false := by decide

theorem test_decode_draw_transparent_remap :
    decodeWord .cmd (0b0000000000000000000#19 ++ 1#1 ++ 0#1 ++ 0b100#3 ++ 0#1 ++ 0b100#3 ++ 0#2 ++ 0#1 ++ 1#1)
      = .drawTransparentRemap 4#3 true := by decide

theorem test_decode_draw_black_remap :
    decodeWord .cmd (0b0000000000000000000#19 ++ 0#1 ++ 0#1 ++ 0b110#3 ++ 0#1 ++ 0b101#3 ++ 0#2 ++ 0#1 ++ 1#1)
      = .drawBlackRemap 6#3 false := by decide

theorem test_decode_clear :
    decodeWord .cmd (0b0000000000000000000#19 ++ 0#1 ++ 0#1 ++ 0b001#3 ++ 0#1 ++ 0b111#3 ++ 0#2 ++ 1#1 ++ 0#1)
      = .clear 7#3 1#3 false := by decide

theorem test_decode_nop :
    decodeWord .cmd (0b0000000000000000000#19 ++ 1#1 ++ 0#1 ++ 0b101#3 ++ 0#1 ++ 0b110#3 ++ 0#2 ++ 0#1 ++ 0#1)
      = .nop 6#3 5#3 true := by decide

/-- A reserved bit, MODE 6 or 7 with START, START with CLEAR (R84 a, b, c). -/
theorem test_decode_illegal :
    decodeWord .cmd 0x00000004#32 = .illegalCmd 0x00000004#32 ∧
    decodeWord .cmd 0x00000800#32 = .illegalCmd 0x00000800#32 ∧
    decodeWord .cmd 0x80000000#32 = .illegalCmd 0x80000000#32 ∧
    decodeWord .cmd 0x00000061#32 = .illegalCmd 0x00000061#32 ∧
    decodeWord .cmd 0x00000071#32 = .illegalCmd 0x00000071#32 ∧
    decodeWord .cmd 0x00000003#32 = .illegalCmd 0x00000003#32 := by decide

/-- The bytes m, class, N low, N high of SRC, lowest address first (R52, R91). -/
theorem test_decode_records :
    (decode .indexRec [0x07#8, 0xFF#8, 0x34#8, 0x12#8]).toOption = some (.skipRec 7#8 0x1234#16, []) ∧
    (decode .indexRec [0x07#8, 0x00#8, 0x34#8, 0x12#8]).toOption = some (.drawRec 7#8 0x1234#16, []) ∧
    (decode .indexRec [0x07#8, 0x80#8, 0x34#8, 0x12#8]).toOption = some (.reservedRec 0x80#8 7#8 0x1234#16, []) := by
  decide

theorem test_decode_needs_four_bytes : (decode .cmd [1#8, 0#8, 0#8]).toOption = none := by decide

theorem test_decode_table_word :
    decodeTableWord 32 0x1211 = some (.drawColourRemap 2#3 true) ∧
    decodeTableWord 16 0xFF05 = some (.skipRec 5#8 0#16) ∧
    decodeTableWord 32 0x3 = some (.illegalCmd 3#32) := by decide

/-- The "match" words of the rows that fix bits. -/
theorem test_table_match_words :
    decodeTableWord 32 0x01 = some (.drawNormal 0#3 false) ∧ decodeTableWord 32 0x11 = some (.drawColourRemap 0#3 false) ∧
    decodeTableWord 32 0x21 = some (.drawCrashRemap 0#3 false) ∧
    decodeTableWord 32 0x31 = some (.drawTransparent 0#3 false) ∧
    decodeTableWord 32 0x41 = some (.drawTransparentRemap 0#3 false) ∧
    decodeTableWord 32 0x51 = some (.drawBlackRemap 0#3 false) ∧ decodeTableWord 32 0x02 = some (.clear 0#3 0#3 false) ∧
    decodeTableWord 32 0x00 = some (.nop 0#3 0#3 false) ∧ decodeTableWord 16 0x0000 = some (.drawRec 0#8 0#16) := by decide

/-! ## Colour arithmetic (95_test_vectors L2.1) -/

/-- A1 to A7. -/
theorem test_brightness :
    brightness (rgba 255 0 0 0) = 76#8 ∧ brightness (rgba 0 255 0 0) = 149#8 ∧ brightness (rgba 0 0 255 0) = 29#8 ∧
    brightness (rgba 255 255 255 0) = 255#8 ∧ brightness (rgba 0 0 0 0) = 0#8 ∧
    brightness (rgba 100 150 200 0) = 140#8 ∧ brightness (rgba 10 20 30 0) = 18#8 := by decide

/-- A8 to A11, A23. -/
theorem test_grey_darken_black :
    grey 140#8 = rgba 140 140 140 255 ∧ darken (rgba 200 100 50 255) = rgba 82 82 82 255 ∧
    darken (rgba 255 255 255 255) = rgba 170 170 170 255 ∧ darken (rgba 200 100 50 128) = rgba 82 82 82 128 ∧
    black = rgba 0 0 0 255 := by decide

/-- A12 to A16. -/
theorem test_compose :
    compose (rgba 200 100 50 0) 128#8 (rgba 10 20 30 255) = rgba 105 60 40 255 ∧
    compose (rgba 0 0 0 0) 255#8 (rgba 255 255 255 255) = rgba 1 1 1 255 ∧
    compose (rgba 255 255 255 0) 255#8 (rgba 0 0 0 255) = rgba 254 254 254 255 ∧
    compose (rgba 200 100 50 0) 1#8 (rgba 10 20 30 255) = rgba 10 20 30 255 ∧
    compose (rgba 0 200 0 0) 128#8 (rgba 10 20 30 255) = rgba 5 110 15 255 := by decide

/-- A18 to A22. -/
theorem test_make_transparent :
    makeTransparent (rgba 200 100 50 0) 3 4 = rgba 150 75 37 255 ∧
    makeTransparent (rgba 200 100 50 0) 1023 1024 = rgba 199 99 49 255 ∧
    makeTransparent (rgba 200 100 50 0) 770 1024 = rgba 150 75 37 255 ∧
    makeTransparent (rgba 1 1 1 0) 3 4 = rgba 0 0 0 255 ∧
    makeTransparent (rgba 140 140 140 0) 896 1024 = rgba 122 122 122 255 := by decide

/-! ## One pixel of each mode (95_test_vectors L2.2) -/

/-- The write step of `ready` gives cell `p` this colour and index, and is DONE. -/
def writes (s : State) (p : Nat) (c : Colour) (v : Byte) : Bool :=
  next? (step s) fun t => decide (t.fbAt p = c) && decide (t.apAt p = v) && t.status.done && !t.busy && t.memWf

/-- V1 and V4. -/
theorem test_normal :
    writes (ready .normal 0#32 (.draw (rgba 200 100 50 255) 7#8)) 0 (rgba 200 100 50 255) 7#8 = true ∧
    writes (ready .normal 1#32 (.draw (rgba 200 100 50 128) 0#8)) 1 (rgba 170 120 95 255) 0#8 = true := by decide

/-- V10's and V12's colours, with a remap table that takes 3 to 4; and V11: an index that the table takes to 0. -/
theorem test_colour_remap :
    writes { ready .colourRemap 0#32 (.draw (rgba 200 100 50 255) 3#8) with src := [(3, 4#8)] } 0
      (rgba 4 0 251 255) 4#8 = true ∧
    writes { ready .colourRemap 0#32 (.draw (rgba 200 100 50 64) 3#8) with src := [(3, 4#8)] } 0
      (rgba 9 15 85 255) 0#8 = true ∧
    writes { ready .colourRemap 1#32 (.draw (rgba 200 100 50 255) 9#8) with src := [(3, 4#8)] } 1
      (rgba 100 150 200 255) 42#8 = true := by decide

/-- V19 and V20. -/
theorem test_crash_remap :
    writes (ready .crashRemap 0#32 (.draw (rgba 200 100 50 255) 0#8)) 0 (rgba 82 82 82 255) 0#8 = true ∧
    writes (ready .crashRemap 0#32 (.draw (rgba 200 100 50 128) 0#8)) 0 (rgba 46 51 56 255) 0#8 = true := by decide

/-- V27 and V29: the background is the brightness-only grey. -/
theorem test_transparent :
    writes (ready .transparent 1#32 (.draw (rgba 1 2 3 255) 7#8)) 1 (rgba 105 105 105 255) 0#8 = true ∧
    writes (ready .transparent 1#32 (.draw (rgba 1 2 3 128) 7#8)) 1 (rgba 122 122 122 255) 0#8 = true := by decide

/-- As V31 and V32: AP only, from the cell's index, or from the nearest index of its colour. -/
theorem test_transparent_remap :
    writes { ready .transparentRemap 1#32 (.draw (rgba 1 2 3 255) 7#8) with src := [(42, 43#8)] } 1
      (rgba 100 150 200 255) 43#8 = true ∧
    writes { ready .transparentRemap 0#32 (.draw (rgba 1 2 3 77) 7#8) with src := [(10, 11#8)] } 0
      (rgba 10 20 30 255) 11#8 = true := by decide

/-- V38. -/
theorem test_black_remap :
    writes (ready .blackRemap 1#32 (.draw (rgba 1 2 3 7) 9#8)) 1 (rgba 0 0 0 255) 0#8 = true := by decide

/-- A SKIP pixel keeps its cell (R155). -/
theorem test_skip_pixel : writes (ready .blackRemap 1#32 .skip) 1 (rgba 100 150 200 255) 42#8 = true := by decide

/-! ## The commands and the register window (95_test_vectors L2.5) -/

/-- STATUS after one host write of a word. -/
def statusAfter (s : State) (off : BitVec 8) (v w : Word) : Bool :=
  next? (step { s with agenda := [.regWrite off .word v] }) fun t => decide (t.statusWord = w)

/-- K3, K5, K7: illegal words while IDLE; K14: an accepted START. -/
theorem test_cmd_while_idle :
    statusAfter small 0x00#8 0x61#32 0x104#32 = true ∧ statusAfter small 0x00#8 0x3#32 0x104#32 = true ∧
    statusAfter small 0x00#8 0x2001#32 0x104#32 = true ∧ statusAfter small 0x00#8 0x1#32 0x11#32 = true := by decide

/-- K17 to K20: a START and an illegal word are dropped while BUSY, CLEAR and NOP are not. -/
theorem test_cmd_while_busy :
    statusAfter (drawing .normal 0#32) 0x00#8 0x1#32 0x19#32 = true ∧
    statusAfter (drawing .normal 0#32) 0x00#8 0x80#32 0x19#32 = true ∧
    statusAfter (drawing .normal 0#32).markDropped 0x00#8 0x2#32 0x11#32 = true ∧
    statusAfter (drawing .normal 0#32) 0x00#8 0x0#32 0x11#32 = true := by decide

/-- K9, K10, K12, K13: unused bits are not stored; K15, K16: a write while BUSY is lost. -/
theorem test_register_bits :
    next? (step { small with agenda := [.regWrite 0x0C#8 .word 0x12345#32] })
      (fun t => decide (t.regRead 0x0C#8 .word = 0x2345#32)) = true ∧
    next? (step { small with agenda := [.regWrite 0x08#8 .word 0xFFFFFFFF#32] })
      (fun t => decide (t.regRead 0x08#8 .word = 1#32)) = true ∧
    next? (step { drawing .normal 0#32 with agenda := [.regWrite 0x14#8 .word 5#32] })
      (fun t => decide (t.regRead 0x14#8 .word = 1#32)) = true := by decide

/-- R23: a narrow, a misaligned and a reserved access do nothing and read 0. -/
theorem test_bad_accesses :
    small.regRead 0x2C#8 .word = 0#32 ∧ (drawing .normal 0#32).regRead 0x14#8 .half = 0#32 ∧
    (drawing .normal 0#32).regRead 0x15#8 .word = 0#32 := by decide

/-- R87 and R144: the offset table of zoom 0 at 0, DATA = 48; the streams start at DATA + 0 and DATA + 16. -/
theorem test_walk_start :
    next? (step { drawing .normal 0#32 with src := [(4, 16#8)] })
      (fun t => decide (t.walk.map (fun w => (w.hc, w.hi)) = some (48, 64)) && t.busy) = true := by decide

/-- R147, R148, R150: two drawable pixels, the first left of the clip, whose colour record is not looked at. -/
theorem test_draw_rec :
    next? (step rowOpen) (fun t => decide (t.walk.map (fun w => (w.row, w.col, w.pc, w.pi))
      = some ([.draw (rgba 200 100 50 255) 7#8], 2, 72, 84))) = true := by decide

/-- R148, R151: a skip run beyond the clip's right edge gives only the visible columns. -/
theorem test_skip_rec :
    next? (execSkipRec 0#8 0xFFFF#16 rowOpen)
      (fun t => decide (t.walk.map (fun w => (w.row, w.col, w.pc)) = some ([.skip, .skip], 65535, 64))) = true := by
  decide

/-- R226, R227, R231: the class check comes before the length check. -/
theorem test_record_errors :
    next? (execReservedRec 0x80#8 0#8 0#16 rowOpen) (fun t => decide (t.status.errCode = 6#4)) = true ∧
    next? (execDrawRec 0#8 0#16 rowOpen) (fun t => decide (t.status.errCode = 7#4)) = true := by decide

/-- The host's fetch words run as the first step after reset: a START, and a skip record of length 0. -/
theorem test_with_fetch_word :
    next? (step (State.reset.withFetchWord 32 0x1)) (fun t => t.busy) = true ∧
    next? (step (State.reset.withFetchWord 16 0xFF00)) (fun t => decide (t.status.errCode = 7#4)) = true := by decide

/-- R208: a `draw` line, and the two that an assembler refuses. -/
theorem test_draw_lines :
    drawWord .colourRemap 2 true = 0x1211#32 ∧
    (expand (.draw .normal 8 false)).toOption = none ∧ (expand (.draw .crashRemap 0 false)).toOption = none := by decide

/-! ## Witnesses: a state and operands that meet the hypotheses of each statement -/

theorem small_inv : small.Inv := by unfold State.Inv; decide
theorem drawing_inv : (drawing .normal 7#32).Inv := by unfold State.Inv; decide
theorem rowOpen_inv : rowOpen.Inv := by unfold State.Inv; decide
theorem ready_inv : (ready .normal 7#32 (.draw (rgba 200 100 50 255) 7#8)).Inv := by unfold State.Inv; decide

theorem witness_ResetEventZeroesBlock : (drawing .normal 0#32).walk = none := by decide

theorem witness_StartAfterResetCompletes :
    ({ small with params := { small.params with nzoom := 1 } } : State).walk = none ∧ 1 ≤ 1 := by decide

theorem witness_EveryStepKeepsInvariant : rowOpen.Inv ∧ ∃ t, step rowOpen = .next t := ⟨rowOpen_inv, _, rfl⟩

theorem witness_DecodeOfEncodeIsIdentity :
    (Instr.drawBlackRemap 7#3 true).wellFormed = true ∧ (Instr.illegalCmd 0xFFFFFFFF#32).wellFormed = true ∧
    (Instr.reservedRec 0xFE#8 0xFF#8 0xFFFF#16).wellFormed = true := by decide

theorem witness_StepRunsDecodedInstruction :
    ((small.facing (.regWrite 0x00#8 .word 1#32)).walk = none ∧
      (small.facing (.regWrite 0x00#8 .word 1#32)).agenda = .regWrite 0x00#8 .word 1#32 :: []) ∧
    (rowOpen.walk = some openWalk ∧ openWalk.phase = .records ∧ openWalk.col < rowOpen.lim ∧
      openWalk.pi + 4 ≤ openWalk.endi ∧ openWalk.pi + 4 ≤ rowOpen.params.srcSize ∧
      decode .indexRec (rowOpen.srcBytes openWalk.pi 4) = .ok (.drawRec 7#8 2#16, [])) := by
  refine ⟨by decide, by decide, by decide, by decide, by decide, by decide, rfl⟩

theorem witness_CmdWriteDispatch : small.walk = none ∧ (drawing .normal 0#32).walk = none := by decide

theorem witness_CommitStepIgnoresOtherAgents :
    rowOpen.walk = some openWalk ∧ (drawing .normal 0#32).walk = none ∧ (drawing .normal 0#32).busy = true := by decide

theorem witness_DrawIsAccepted : small.eng = .idle := by decide

theorem witness_CmdWriteWhileBusyIsDropped :
    (drawing .normal 0#32).walk = none ∧ (drawing .normal 0#32).busy = true ∧
    (0x1#32 : Word).getLsbD 0 = true ∧ illegalWord 0x80#32 = true := by decide

theorem witness_ClearClearsStatus : (drawing .normal 7#32).Inv ∧ (drawing .normal 7#32).busy = true :=
  ⟨drawing_inv, by decide⟩

theorem witness_IllegalWordRaisesIllegalCmd : small.eng = .idle := by decide

theorem witness_SkipRecordCoversVisibleColumns :
    rowOpen.walk = some openWalk ∧ openWalk.phase = .records ∧ (0xFFFF#16 : Half) ≠ 0#16 := by decide

theorem witness_DrawRecordCoversVisibleColumns :
    rowOpen.walk = some openWalk ∧ openWalk.phase = .records ∧ (2#16 : Half) ≠ 0#16 ∧
    ∀ k ∈ rowOpen.visibleColumns openWalk.col (2#16 : Half).toNat, rowOpen.goodColumn openWalk k := by
  simp only [State.goodColumn]; decide

/-- One state for each of the three checks: the record is past `endc` by 4 bytes; past SRC by 4; and not drawable. -/
theorem witness_DrawRecordReportsFirstError :
    (1 ∈ rowOpen.visibleColumns 0 2 ∧ ∀ j ∈ rowOpen.visibleColumns 0 2, ¬ j < 1) ∧
    (let w : Walk := { openWalk with endc := 68 };
      (rowOpenAt w).walk = some w ∧ w.phase = .records ∧ w.endc < w.pc + 4 * 1 + 4) ∧
    (let w : Walk := { openWalk with pc := 124, endc := 132 };
      (rowOpenAt w).walk = some w ∧ w.phase = .records ∧ w.pc + 4 * 1 + 4 ≤ w.endc ∧
        (rowOpenAt w).params.srcSize < w.pc + 4 * 1 + 4) ∧
    (let w : Walk := { openWalk with pc := 60 };
      (rowOpenAt w).walk = some w ∧ w.phase = .records ∧ w.pc + 4 * 1 + 4 ≤ w.endc ∧
        w.pc + 4 * 1 + 4 ≤ (rowOpenAt w).params.srcSize ∧ ((rowOpenAt w).srcColour (w.pc + 4 * 1)).a = 0#8) := by decide

theorem witness_ZeroRunIsAnError : rowOpen.walk = some openWalk ∧ openWalk.phase = .records := by decide

theorem witness_ReservedClassIsAnError : rowOpen.walk = some openWalk ∧ openWalk.phase = .records := by decide

theorem witness_RecordOutsideRowIsRefused : ∀ w, small.walk = some w → w.phase ≠ .records := by
  intro w h; cases h

/-- A state for each clause: zoom NZOOM; a remap mode without a table; WIDTH 0; PITCH one less than WIDTH with two rows;
one cell past FB; a table one byte past SRC. -/
theorem witness_ParameterChecksInOrder :
    (let s := { drawing .normal 0#32 with latch := { mode := .normal, zoom := 6#3, remapEn := true, anim := true } };
      s.walk = none ∧ s.busy = true ∧ s.params.nzoom ≤ s.latch.zoom.toNat) ∧
    (let s := { drawing .colourRemap 0#32 with latch := { mode := .colourRemap, zoom := 5#3, remapEn := false, anim := true } };
      s.latch.zoom.toNat < s.params.nzoom ∧ s.latch.mode = .colourRemap ∧ s.latch.remapEn = false) ∧
    (let s := { drawing .normal 0#32 with regs := { Regs.zero with height := 1#16 } };
      s.latch.zoom.toNat < s.params.nzoom ∧ s.latch.mode ≠ .colourRemap ∧ s.latch.mode ≠ .crashRemap ∧
        s.latch.mode ≠ .transparentRemap ∧ s.regs.width.toNat = 0) ∧
    (let s := { drawing .normal 0#32 with regs := { Regs.zero with width := 2#16, height := 2#16, dstPitch := 1#32 } };
      0 < s.regs.width.toNat ∧ 1 < s.regs.height.toNat ∧ s.regs.dstPitch.toNat < s.regs.width.toNat) ∧
    (let s := drawing .normal 8#32;
      0 < s.regs.width.toNat ∧ 0 < s.regs.height.toNat ∧
        s.params.fbPixels < s.regs.dstOff.toNat + (s.regs.height.toNat - 1) * s.regs.dstPitch.toNat + s.regs.width.toNat) ∧
    (let s := { drawing .crashRemap 7#32 with params := { small.params with srcSize := 255 } };
      s.latch.remapEn = true ∧ ¬ 1 < s.regs.height.toNat ∧
        ¬ s.params.fbPixels < s.regs.dstOff.toNat + (s.regs.height.toNat - 1) * s.regs.dstPitch.toNat + s.regs.width.toNat ∧
        s.params.srcSize < s.regs.remapBase.toNat + 256) := by decide

/-- The offset-table entry ends one byte past SRC, and at its last byte. -/
theorem witness_WalkStartsAtZoomStreams :
    (let s := { drawing .normal 0#32 with params := { small.params with srcSize := 7 } };
      s.walk = none ∧ s.busy = true ∧ s.checksHold = true ∧ s.params.srcSize < 0 + 8) ∧
    (let s := { drawing .normal 0#32 with params := { small.params with srcSize := 8 } };
      s.walk = none ∧ s.busy = true ∧ s.checksHold = true ∧
        s.regs.spriteBase.toNat + 8 * s.latch.zoom.toNat + 8 ≤ s.params.srcSize) := by decide

/-- Headers that end at the last byte of SRC, and one byte past it, for a row to skip and for a row to draw. -/
theorem witness_SkippedRowFollowsHeaders_DrawnRowReadsHeaders :
    (let w : Walk := { openWalk with phase := .skipRows 1, hc := 124, hi := 124 };
      (rowOpenAt w).walk = some w ∧ w.phase = .skipRows (0 + 1) ∧ w.hc + 4 ≤ 128 ∧ w.hi + 4 ≤ (rowOpenAt w).params.srcSize) ∧
    (let w : Walk := { openWalk with phase := .skipRows 1, hi := 125 };
      (rowOpenAt w).walk = some w ∧ w.phase = .skipRows (0 + 1) ∧ (rowOpenAt w).params.srcSize < w.hi + 4) ∧
    (let w : Walk := { openWalk with phase := .rowStart, hc := 124, hi := 124 };
      (rowOpenAt w).walk = some w ∧ w.phase = .rowStart ∧ w.y < (rowOpenAt w).regs.height.toNat ∧
        w.hc + 4 ≤ (rowOpenAt w).params.srcSize ∧ w.hi + 4 ≤ (rowOpenAt w).params.srcSize) ∧
    (let w : Walk := { openWalk with phase := .rowStart, hc := 125 };
      (rowOpenAt w).walk = some w ∧ w.phase = .rowStart ∧ w.y < (rowOpenAt w).regs.height.toNat ∧
        (rowOpenAt w).params.srcSize < w.hc + 4) := by decide

theorem witness_FinishedRowMovesToNextHeaders :
    (let w : Walk := { openWalk with col := 3, row := [.skip, .skip] };
      (rowOpenAt w).walk = some w ∧ w.phase = .records ∧
        (rowOpenAt w).regs.skipLeft.toNat + (rowOpenAt w).regs.width.toNat ≤ w.col) := by decide

theorem witness_FetchPastScanlineIsAnError :
    (let w : Walk := { openWalk with pi := 85 };
      (rowOpenAt w).walk = some w ∧ w.phase = .records ∧ w.col < 1 + 2 ∧ w.endi < w.pi + 4) ∧
    (let w : Walk := { openWalk with pi := 125, endi := 129 };
      (rowOpenAt w).walk = some w ∧ w.phase = .records ∧ w.col < 1 + 2 ∧ w.pi + 4 ≤ w.endi ∧
        (rowOpenAt w).params.srcSize < w.pi + 4) := by decide

theorem witness_CommitStepMeetsPseudocode :
    (drawing .normal 0#32).busy = true ∧ (drawing .normal 0#32).walk = none ∧ (drawing .normal 0#32).agenda = [] := by
  decide

theorem witness_ValidationWritesNothing :
    rowOpen.walk = some openWalk ∧ ∃ t, step rowOpen = .next t ∧ t.busy = true := ⟨rfl, _, rfl, by decide⟩

/-- An error of a record in a walk: the class byte is 1. -/
theorem witness_ErrorEntryIsPrecise :
    (let s := { rowOpen with src := [(81, 1#8)] };
      s.Inv ∧ s.busy = true ∧ ∃ t, step s = .next t ∧ t.status.err = true) :=
  ⟨by unfold State.Inv; decide, by decide, _, rfl, by decide⟩

/-- An error of the parameter checks: no FB cell 8. -/
theorem witness_FailedDrawLeavesPlanes :
    (let s := drawing .normal 8#32;
      s.Inv ∧ s.busy = true ∧ s.walk = none ∧ s.agenda = [] ∧
        ∃ t : State, Host.Core.run Sys2Proof.core s.commitBound s = .next t ∧ t.status.err = true) :=
  ⟨by unfold State.Inv; decide, by decide, by decide, by decide, _, rfl, by decide⟩

theorem witness_EngineKeepsItsInputs :
    (drawing .normal 0#32).walk = none ∧ (drawing .normal 0#32).agenda = [] ∧ small.walk = none ∧ small.agenda = [] ∧
    rowOpen.walk = some openWalk := by decide

theorem witness_WritePhaseIsPointwise :
    (∃ w, (ready .normal 7#32 (.draw (rgba 200 100 50 255) 7#8)).Inv ∧
      (ready .normal 7#32 (.draw (rgba 200 100 50 255) 7#8)).readyToWrite w ∧
      pixAt w.rows 0 0 = some (.draw (rgba 200 100 50 255) 7#8)) ∧
    (∃ w, (ready .normal 7#32 .skip).Inv ∧ (ready .normal 7#32 .skip).readyToWrite w ∧ pixAt w.rows 0 0 = some .skip) :=
  ⟨⟨_, ready_inv, ⟨rfl, by decide, by decide⟩, by decide⟩,
    ⟨_, by unfold State.Inv; decide, ⟨rfl, by decide, by decide⟩, by decide⟩⟩

/-- A BUSY state that begins, and a step of a walk that changes cell 7. -/
theorem witness_DrawWritesOnlyDrawnClipCells :
    (drawing .normal 7#32).walk = none ∧
    (let s := ready .normal 7#32 (.draw (rgba 200 100 50 255) 7#8);
      s.Inv ∧ ∃ w t, s.walk = some w ∧ step s = .next t ∧ t.fbAt 7 ≠ s.fbAt 7) :=
  ⟨by decide, ready_inv, _, _, rfl, rfl, by decide⟩

theorem witness_RgbPathIgnoresAnimationPlane :
    (let s := { drawing .normal 0#32 with latch := Latch.zero };
      s.walk = none ∧ s.busy = true ∧ s.latch.anim = false) ∧
    (let s := { rowOpen with latch := Latch.zero };
      s.walk = some openWalk ∧ s.latch.anim = false) := by decide

/-- On the animated path, at the last cell of FB, a partly transparent pixel. -/
theorem witness_BlackRemapBlackensEveryPixel :
    (let s := ready .blackRemap 7#32 (.draw (rgba 1 2 3 7) 9#8);
      s.Inv ∧ s.latch.mode = .blackRemap ∧ s.latch.anim = true ∧
      ∃ w t, s.readyToWrite w ∧ step s = .next t ∧ 0 < s.regs.height.toNat ∧ 0 < s.regs.width.toNat ∧
        pixAt w.rows 0 0 = some (.draw (rgba 1 2 3 7) 9#8)) :=
  ⟨by unfold State.Inv; decide, by decide, by decide, _, _, ⟨rfl, by decide, by decide⟩, rfl, by decide, by decide,
    by decide⟩

theorem witness_NormalReproducesOpaqueSprite :
    (let s := ready .normal 7#32 (.draw (rgba 200 100 50 255) 7#8);
      s.Inv ∧ s.latch.mode = .normal ∧ s.latch.anim = true ∧
      ∃ w t, s.readyToWrite w ∧ step s = .next t ∧ 0 < s.regs.height.toNat ∧ 0 < s.regs.width.toNat ∧
        pixAt w.rows 0 0 = some (.draw (rgba 200 100 50 255) 7#8) ∧ (rgba 200 100 50 255).a = 255#8) :=
  ⟨ready_inv, by decide, by decide, _, _, ⟨rfl, by decide, by decide⟩, rfl, by decide, by decide, by decide, by decide⟩

/-- A DRAW of TransparentRemap at the end of its walk, with the identity table at SRC address 0. -/
def identityDraw : State :=
  { ready .transparentRemap 1#32 (.draw (rgba 1 2 3 255) 7#8) with
      params := { small.params with srcSize := 256 },
      src := (List.range 255).map fun k => (k + 1, BitVec.ofNat 8 (k + 1)) }

theorem identityDraw_remap : ∀ i : Byte, identityDraw.srcAt (identityDraw.regs.remapBase.toNat + i.toNat) = i := by
  have h : ∀ k : Fin 256, identityDraw.srcAt (identityDraw.regs.remapBase.toNat + (BitVec.ofFin k : Byte).toNat) =
    BitVec.ofFin k := by decide +kernel
  intro i; exact h i.toFin

theorem witness_IdentityRemapKeepsAnimatedCells :
    identityDraw.Inv ∧ identityDraw.latch.mode = .transparentRemap ∧ identityDraw.latch.anim = true ∧
    (∀ i : Byte, identityDraw.srcAt (identityDraw.regs.remapBase.toNat + i.toNat) = i) ∧
    (∃ w t, identityDraw.readyToWrite w ∧ step identityDraw = .next t) ∧ identityDraw.apAt 1 ≠ 0#8 :=
  ⟨by unfold State.Inv; decide +kernel, by decide, by decide, identityDraw_remap,
    ⟨_, _, ⟨rfl, by decide, by decide⟩, rfl⟩, by decide⟩

/-- For the six pixel rules: a canonical state, with an opaque record and records with the least and the greatest partial
alpha; remap indices 0, 3 (which the table takes to 4) and 9 (which it takes to 0); and cells with and without an index. -/
theorem witness_PixelRules :
    (let s := { small with src := [(3, 4#8)] };
      s.memWf = true ∧ (rgba 200 100 50 255).a ≠ 0#8 ∧ (rgba 200 100 50 255).a = 255#8 ∧
      (rgba 200 100 50 1).a ≠ 0#8 ∧ (rgba 200 100 50 1).a ≠ 255#8 ∧ (rgba 200 100 50 254).a ≠ 255#8 ∧
      (3#8 : Byte) ≠ 0#8 ∧ s.remap 3#8 ≠ 0#8 ∧ (9#8 : Byte) ≠ 0#8 ∧ s.remap 9#8 = 0#8 ∧
      s.apAt 1 ≠ 0#8 ∧ s.apAt 0 = 0#8) := by decide

theorem witness_MakeTransparentIsExact : 1024 ≤ 1024 ∧ 0 < 1024 ∧ 0 ≤ 1 ∧ 0 < 1 := by decide

theorem witness_BackgroundOfBlend : small.apAt 1 ≠ 0#8 ∧ small.apAt 0 = 0#8 := by decide

theorem witness_RegisterWriteReadsBack :
    small.walk = none ∧ small.eng = .idle ∧ RegName.cfg ≠ .cmd ∧ RegName.cfg ≠ .status ∧ RegName.remapBase ≠ .cfg := by
  decide

theorem witness_RegisterAccessWhileBusy :
    (drawing .normal 0#32).walk = none ∧ (drawing .normal 0#32).busy = true ∧ RegName.status ≠ .cmd ∧
    small.walk = none ∧ small.busy = false := by decide

/-- A narrow access, the offset 1, and the first reserved offset, which is a multiple of 4. -/
theorem witness_BadRegisterAccessHasNoEffect :
    small.walk = none ∧ Access.half ≠ .word ∧ (0x01#8 : BitVec 8).toNat % 4 ≠ 0 ∧ 0x2C ≤ (0x2C#8 : BitVec 8).toNat := by
  decide

/-- An IDLE and a BUSY state; a CLEAR and a START with every field that is not reserved set to its greatest value. -/
theorem witness_InterruptFollowsDoneAndErr :
    small.walk = none ∧ small.eng = .idle ∧ (drawing .normal 0#32).walk = none ∧ (drawing .normal 0#32).eng = .busy ∧
    illegalWord 0x2#32 = false ∧ (0x2#32 : Word).getLsbD 1 = true ∧
    illegalWord 0x1772#32 = false ∧ (0x1772#32 : Word).getLsbD 1 = true ∧
    illegalWord 0x1#32 = false ∧ (0x1#32 : Word).getLsbD 0 = true ∧
    illegalWord 0x1751#32 = false ∧ (0x1751#32 : Word).getLsbD 0 = true := by decide

/-- The last cell of each memory, the least and the greatest plane size, and a BUSY state for the inputs. -/
theorem witness_HostMemoryWriteStores_HostMemoryReadReturns :
    small.Inv ∧ small.walk = none ∧ small.eng = .idle ∧ 7 < small.params.fbPixels ∧ small.apPresent = true ∧
    127 < small.params.srcSize ∧ 1 ≤ 1 ∧ 1 ≤ 2 ^ 32 ∧ 2 ^ 32 ≤ 2 ^ 32 ∧ (drawing .normal 7#32).walk = none :=
  ⟨small_inv, by decide, by decide, by decide, by decide, by decide, by decide, by decide, by decide, by decide⟩

/-- One step for each clause that a host, the environment or reset takes. -/
theorem witness_ChangesComeFromTheirAgent :
    small.Inv ∧
    (∃ t, step (small.facing (wrAction .width 1#32)) = .next t ∧ t.regs ≠ small.regs) ∧
    (∃ t, step ((drawing .normal 7#32).facing .reset) = .next t ∧ t.regs ≠ (drawing .normal 7#32).regs ∧
      t.latch ≠ (drawing .normal 7#32).latch ∧ t.eng = .idle) ∧
    (∃ t, step (small.facing (.srcWrite 127 1#8)) = .next t ∧ t.src ≠ small.src) ∧
    (∃ t, step (small.facing (.fbWrite 7 black)) = .next t ∧ t.fb ≠ small.fb) ∧
    (∃ t, step (small.facing (.apWrite 7 1#8)) = .next t ∧ t.ap ≠ small.ap) ∧
    (∃ t, step (small.facing (.envApWrite 7 1#8)) = .next t ∧ t.ap ≠ small.ap) ∧
    (∃ t, step (small.facing (.resize 1)) = .next t ∧ t.fb ≠ small.fb ∧ t.ap ≠ small.ap) ∧
    (∃ t, step (small.facing (.setApPresent false)) = .next t ∧ t.apPresent ≠ small.apPresent) ∧
    (∃ t, step (small.facing (.setAnimDisable true)) = .next t ∧ t.animDisable ≠ small.animDisable) ∧
    (∃ t, step (small.facing (wrAction .cmd 1#32)) = .next t ∧ t.eng = .busy ∧ t.latch ≠ small.latch) :=
  ⟨small_inv, ⟨_, rfl, by decide⟩, ⟨_, rfl, by decide, by decide, by decide⟩, ⟨_, rfl, by decide⟩, ⟨_, rfl, by decide⟩,
    ⟨_, rfl, by decide⟩, ⟨_, rfl, by decide⟩, ⟨_, rfl, by decide, by decide⟩, ⟨_, rfl, by decide⟩, ⟨_, rfl, by decide⟩,
    ⟨_, rfl, by decide, by decide⟩⟩

/-- The clauses that the engine's own steps take: an empty clip's DRAW, begun by the empty agenda and by the agenda's next
entry; and a write phase that changes both planes. -/
theorem witness_ChangesComeFromTheEngine :
    (let s := { drawing .normal 7#32 with regs := Regs.zero };
      s.Inv ∧ s.agenda = [] ∧ (∃ t, step s = .next t ∧ t.eng = .idle ∧ t.status ≠ s.status) ∧
        ∃ t, step (s.facing .engine) = .next t ∧ t.eng = .idle ∧ t.status ≠ s.status) ∧
    (let s := ready .normal 7#32 (.draw (rgba 200 100 50 255) 7#8);
      s.Inv ∧ ∃ t, step s = .next t ∧ t.fb ≠ s.fb ∧ t.ap ≠ s.ap ∧ t.eng = .idle) :=
  ⟨⟨by unfold State.Inv; decide, by decide, ⟨_, rfl, by decide, by decide⟩, _, rfl, by decide, by decide⟩,
    ready_inv, _, rfl, by decide, by decide, by decide⟩

theorem witness_MemoryMovesNotEnabledWhileBusy :
    (drawing .normal 0#32).walk = none ∧ (drawing .normal 0#32).busy = true := by decide

theorem witness_AssembledDrawDecodes :
    7 < 8 ∧ 7 ≤ 7 ∧ Mode.colourRemap.usesRemap = true ∧ Mode.blackRemap.usesRemap = false := by decide

end Sys2Proof.Tests
end

section
/-! The register window (10_state.md): what each register reads, what a host access to the window does as a step, and the
statements of that file. -/

namespace Sys2Proof.Machine

/-! ## Which register an access reaches (R22, R23) -/

/-- An access reaches a register exactly when it is 32 bits wide and at the register's offset. -/
theorem regOfAccess_eq_some {off : BitVec 8} {size : Access} {name : RegName} :
    regOfAccess off size = some name ↔ size = .word ∧ off = name.offset := by
  constructor
  · intro h
    cases size with
    | word => exact ⟨rfl, offset_of_regAt h⟩
    | half => cases h
    | byte => cases h
  · rintro ⟨rfl, rfl⟩
    exact regAt_offset name

@[simp] theorem regOfAccess_offset (name : RegName) : regOfAccess name.offset .word = some name :=
  regAt_offset name

theorem RegName.offset_aligned (name : RegName) : name.offset.toNat % 4 = 0 := by cases name <;> rfl

theorem RegName.offset_lt_reserved (name : RegName) : name.offset.toNat < 0x2C := by cases name <;> decide

/-- A narrow, misaligned or reserved access reaches no register. -/
theorem regOfAccess_eq_none {off : BitVec 8} {size : Access}
    (h : size ≠ .word ∨ off.toNat % 4 ≠ 0 ∨ 0x2C ≤ off.toNat) : regOfAccess off size = none := by
  cases hr : regOfAccess off size with
  | none => rfl
  | some name =>
    obtain ⟨rfl, rfl⟩ := regOfAccess_eq_some.1 hr
    have aligned := name.offset_aligned
    have below := name.offset_lt_reserved
    rcases h with h | h | h
    · exact absurd rfl h
    · exact absurd aligned h
    · omega

/-! ## Reading and writing at an offset -/

@[simp] theorem State.regRead_offset (s : State) (name : RegName) :
    s.regRead name.offset .word = s.regValue name := by
  simp [State.regRead]

theorem State.regRead_of_none {off : BitVec 8} {size : Access} (h : regOfAccess off size = none) (s : State) :
    s.regRead off size = 0#32 := by
  simp [State.regRead, h]

theorem State.regWrite_of_none {off : BitVec 8} {size : Access} (h : regOfAccess off size = none) (s : State) (v : Word) :
    s.regWrite off size v = s := by
  simp [State.regWrite, h]

theorem State.regWrite_of_busy {s : State} (h : s.busy = true) (off : BitVec 8) (size : Access) (v : Word) :
    s.regWrite off size v = s := by
  rcases s.regWrite_cases off size v with hs | ⟨hb, -⟩
  · exact hs
  · simp [h] at hb

theorem State.regWrite_offset_of_idle {s : State} (h : s.busy = false) (name : RegName) (v : Word) :
    s.regWrite name.offset .word v = { s with regs := s.regs.write v name } := by
  simp [State.regWrite, h]

/-! ## What a register reads -/

/-- The low `n` bits of a word, the others 0. -/
theorem zeroExtend_extractLsb'_zero (v : Word) (n : Nat) :
    (v.extractLsb' 0 n).zeroExtend 32 = v &&& BitVec.ofNat 32 (2 ^ n - 1) := by
  refine BitVec.eq_of_getLsbD_eq fun i hi => ?_
  rw [BitVec.getLsbD_and, BitVec.getLsbD_ofNat, Nat.testBit_two_pow_sub_one]
  simp [hi, Bool.and_comm]

theorem bit_zeroExtend (b : Bool) : (bit b).zeroExtend 32 = if b then 1#32 else 0#32 := by
  cases b <;> rfl

theorem bit_getLsbD_zero (v : Word) : bit (v.getLsbD 0) = v.extractLsb' 0 1 := by
  ext i hi
  have : i = 0 := by omega
  simp [this, bit]

/-- No stored register shows in STATUS. -/
@[simp] theorem State.statusWord_of_regs (s : State) (r : Regs) :
    ({ s with regs := r } : State).statusWord = s.statusWord := rfl

/-- A written register reads the used bits of what was written (R24). -/
theorem State.regValue_write_same (s : State) (v : Word) {name : RegName} (hc : name ≠ .cmd) (hs : name ≠ .status) :
    ({ s with regs := s.regs.write v name } : State).regValue name = v &&& name.mask := by
  cases name with
  | cmd => exact absurd rfl hc
  | status => exact absurd rfl hs
  | cfg =>
    change (bit (v.getLsbD 0)).zeroExtend 32 = v &&& 0x1#32
    rw [bit_getLsbD_zero]
    exact zeroExtend_extractLsb'_zero v 1
  | skipTop | skipLeft | width | height => exact zeroExtend_extractLsb'_zero v 16
  | dstOff | dstPitch | spriteBase | remapBase => exact (BitVec.and_allOnes (x := v)).symm

/-- Every register but the written one reads as before (R24). -/
theorem State.regValue_write_other (s : State) (v : Word) {name other : RegName} (h : other ≠ name) :
    ({ s with regs := s.regs.write v name } : State).regValue other = s.regValue other := by
  cases name with
  | cmd | status => rfl
  | _ => cases other <;> simp [State.regValue, Regs.write] at h ⊢

/-- With STATUS, the engine and the latched fields at their reset values, STATUS reads 0. -/
theorem State.statusWord_of_zero {s : State} (hs : s.status = Status.zero) (he : s.eng = .idle)
    (hl : s.latch = Latch.zero) : s.statusWord = 0#32 := by
  rw [State.statusWord, (State.not_busy_iff s).2 he, hs, hl]
  decide

/-- With every field at its reset value, every register reads 0. -/
theorem State.regValue_of_zero {s : State} (hr : s.regs = Regs.zero) (hs : s.statusWord = 0#32) (name : RegName) :
    s.regValue name = 0#32 := by
  cases name <;> simp [State.regValue, hr, hs, Regs.zero, bit_zeroExtend]

/-! ## A host access to the window as a step -/

/-- Between commit steps, a step takes the action that the state faces. -/
theorem step_facing {s : State} (h : s.walk = none) (a : Action) : step (s.facing a) = (s.act a).outcome :=
  step_of_action (s := s.facing a) h rfl

/-- A read returns what the access reaches and changes nothing else, BUSY or IDLE (R206). -/
theorem step_regRead {s : State} (h : s.walk = none) (off : BitVec 8) (size : Access) :
    step (s.facing (.regRead off size)) = .next { s with rdata := .word (s.regRead off size) } :=
  step_facing h _

/-- A write that does not reach CMD has the effect of `State.regWrite`, and runs no command. -/
theorem step_regWrite {s : State} (h : s.walk = none) {off : BitVec 8} {size : Access}
    (hc : regOfAccess off size ≠ some .cmd) (v : Word) :
    step (s.facing (.regWrite off size v)) = .next (s.regWrite off size v) := by
  rw [step_facing h, State.act, if_neg hc]
  rfl

theorem step_regWrite_offset {s : State} (h : s.walk = none) {name : RegName} (hc : name ≠ .cmd) (v : Word) :
    step (s.facing (.regWrite name.offset .word v)) = .next (s.regWrite name.offset .word v) :=
  step_regWrite h (by simpa using hc) v

/-! ## The statements -/

/-- Settles O51: a write that reaches the window is `Regs.write`, which stores the used bits and, for STATUS, nothing. -/
theorem registerWriteReadsBack : Obligations.RegisterWriteReadsBack := by
  refine ⟨?offsets, fun s => ?fields, fun s v hw hi => ⟨fun name hc hs => ?stored, ?status⟩⟩
  case offsets => decide
  case fields => exact ⟨rfl, rfl, bit_zeroExtend _, rfl, rfl, rfl, rfl, rfl, rfl, rfl, rfl⟩
  case stored =>
    refine ⟨{ s with regs := s.regs.write v name }, ?_, s.regValue_write_same v hc hs,
      fun other ho => s.regValue_write_other v ho, rfl⟩
    rw [step_regWrite_offset hw hc, State.regWrite_offset_of_idle ((State.not_busy_iff s).2 hi)]
  case status =>
    have taken := step_regWrite_offset hw (name := .status) (by decide) v
    rwa [State.regWrite_offset_of_idle ((State.not_busy_iff s).2 hi)] at taken

/-- Settles O2: the fields are at their reset values, and so every register reads 0. -/
theorem powerOnStateReadsZero : Obligations.PowerOnStateReadsZero := by
  have status : State.reset.statusWord = 0#32 := State.statusWord_of_zero rfl rfl rfl
  exact ⟨rfl, rfl, rfl, rfl, rfl, State.regValue_of_zero rfl status, rfl, rfl⟩

/-- Settles O52: `State.regWrite` does nothing while BUSY, and a read changes only what the host was last given. -/
theorem registerAccessWhileBusy : Obligations.RegisterAccessWhileBusy := by
  intro s name v hw
  constructor
  · intro hb hc
    rw [step_regWrite_offset hw hc, State.regWrite_of_busy hb]
  · rw [step_regRead hw, State.regRead_offset]

/-- Settles O53: such an access reaches no register. -/
theorem badRegisterAccessHasNoEffect : Obligations.BadRegisterAccessHasNoEffect := by
  intro s off size v hw h
  have unreached := regOfAccess_eq_none h
  constructor
  · rw [step_regWrite hw (by simp [unreached]), State.regWrite_of_none unreached]
  · rw [step_regRead hw, State.regRead_of_none unreached]

end Sys2Proof.Machine
end

section
/-! The background of a blend (40_pixel_blend.md, R116): one equation for each case of `State.bg`. -/

namespace Sys2Proof.Machine

/-- The case in which a blend does not see the cell's own colour. -/
theorem State.bg_anim_of_index {s : State} {p : Nat} (h : s.apAt p ≠ 0#8) :
    s.bg true p = grey (brightness (s.fbAt p)) := by simp [State.bg, h]

theorem State.bg_anim_of_no_index {s : State} {p : Nat} (h : s.apAt p = 0#8) : s.bg true p = s.fbAt p := by
  simp [State.bg, h]

@[simp] theorem State.bg_rgb (s : State) (p : Nat) : s.bg false p = s.fbAt p := rfl

/-- Settles O50: one equation of `State.bg` for each clause; `grey` has the lanes written out there (R112). -/
theorem backgroundOfBlend : Obligations.BackgroundOfBlend := by
  intro s p
  exact ⟨State.bg_anim_of_index, State.bg_anim_of_no_index, s.bg_rgb p⟩

end Sys2Proof.Machine
end

section
/-! The animation plane on the RGB-only path (41_animation_plane.md, R131): the state with another plane, and that every
part of the commit step commutes with putting it there. -/

namespace Sys2Proof.Machine

/-- The state with other contents of AP, and with the plane attached or not. -/
def State.withPlane (plane : List Host.Cell) (present : Bool) (s : State) : State :=
  { s with ap := plane, apPresent := present }

/-- The outcome with another plane in the next state, if there is one. -/
def Outcome.withPlane (plane : List Host.Cell) (present : Bool) : Outcome → Outcome
  | .next s => .next (s.withPlane plane present)
  | .fault r => .fault r
  | .refused r => .refused r

section
variable (plane : List Host.Cell) (present : Bool) (s : State)

/-! ## What does not see the plane -/

@[simp] theorem State.withPlane_params : (s.withPlane plane present).params = s.params := rfl
@[simp] theorem State.withPlane_regs : (s.withPlane plane present).regs = s.regs := rfl
@[simp] theorem State.withPlane_latch : (s.withPlane plane present).latch = s.latch := rfl
@[simp] theorem State.withPlane_lim : (s.withPlane plane present).lim = s.lim := rfl
@[simp] theorem State.withPlane_emptyClip : (s.withPlane plane present).emptyClip = s.emptyClip := rfl
@[simp] theorem State.withPlane_dstLegal : (s.withPlane plane present).dstLegal = s.dstLegal := rfl
@[simp] theorem State.withPlane_clipCell (y x : Nat) :
    (s.withPlane plane present).clipCell y x = s.clipCell y x := rfl
@[simp] theorem State.withPlane_fbAt (p : Nat) : (s.withPlane plane present).fbAt p = s.fbAt p := rfl
@[simp] theorem State.withPlane_remap (i : Byte) : (s.withPlane plane present).remap i = s.remap i := rfl
@[simp] theorem State.withPlane_palLookup (i : Byte) : (s.withPlane plane present).palLookup i = s.palLookup i := rfl
@[simp] theorem State.withPlane_palNearest (c : Colour) :
    (s.withPlane plane present).palNearest c = s.palNearest c := rfl
@[simp] theorem State.withPlane_inSrc (addr n : Nat) : (s.withPlane plane present).inSrc addr n = s.inSrc addr n := rfl
@[simp] theorem State.withPlane_tableEntry : (s.withPlane plane present).tableEntry = s.tableEntry := rfl
@[simp] theorem State.withPlane_startWalk : (s.withPlane plane present).startWalk = s.startWalk := rfl
@[simp] theorem State.withPlane_nextScanline (h : Nat) :
    (s.withPlane plane present).nextScanline h = s.nextScanline h := rfl
@[simp] theorem State.withPlane_headersInSrc (w : Walk) :
    (s.withPlane plane present).headersInSrc w = s.headersInSrc w := rfl
@[simp] theorem State.withPlane_openRow : (s.withPlane plane present).openRow = s.openRow := rfl
@[simp] theorem State.withPlane_visibleFrom (w : Walk) :
    (s.withPlane plane present).visibleFrom w = s.visibleFrom w := rfl
@[simp] theorem State.withPlane_visibleCount (w : Walk) (n : Half) :
    (s.withPlane plane present).visibleCount w n = s.visibleCount w n := rfl
@[simp] theorem State.withPlane_drawnPixel (w : Walk) (m : Byte) (k : Nat) :
    (s.withPlane plane present).drawnPixel w m k = s.drawnPixel w m k := rfl

@[simp] theorem State.withPlane_drawnPixels (w : Walk) (m : Byte) (count k : Nat) :
    (s.withPlane plane present).drawnPixels w m count k = s.drawnPixels w m count k := by
  induction count generalizing k with
  | zero => rfl
  | succ count ih => simp only [State.drawnPixels, State.withPlane_drawnPixel, ih]

/-! ## The updates of the commit step -/

@[simp] theorem State.withPlane_ite (b : Prop) [Decidable b] (t : State) :
    (if b then s else t).withPlane plane present =
      if b then s.withPlane plane present else t.withPlane plane present :=
  apply_ite (State.withPlane plane present) b s t

@[simp] theorem State.setFb_withPlane (p : Nat) (c : Colour) :
    (s.withPlane plane present).setFb p c = (s.setFb p c).withPlane plane present := rfl
@[simp] theorem State.setWalk_withPlane (w : Walk) :
    (s.withPlane plane present).setWalk w = (s.setWalk w).withPlane plane present := rfl
@[simp] theorem State.raiseError_withPlane (e : ErrorCode) :
    (s.withPlane plane present).raiseError e = (s.raiseError e).withPlane plane present := rfl
@[simp] theorem State.complete_withPlane :
    (s.withPlane plane present).complete = s.complete.withPlane plane present := rfl

/-- On the RGB-only path a pixel goes to FB alone (R131). -/
@[simp] theorem State.putPixel_rgb (p : Nat) (c : Colour) (v : Byte) : s.putPixel false p c v = s.setFb p c := rfl

/-! ## The write phase -/

theorem pixelLiteral_withPlane (p : Nat) (c lit : Colour) :
    pixelLiteral false p c lit (s.withPlane plane present) =
      (pixelLiteral false p c lit s).withPlane plane present := by
  simp [pixelLiteral]

theorem pixelRemapped_withPlane (p : Nat) (c : Colour) (m : Byte) :
    pixelRemapped false p c m (s.withPlane plane present) =
      (pixelRemapped false p c m s).withPlane plane present := by
  by_cases h : s.remap m = 0#8 <;> simp [pixelRemapped, h]

/-- No pixel rule of the RGB-only path looks at the plane. -/
theorem pixelRule_withPlane (mode : Mode) (p : Nat) (c : Colour) (m : Byte) :
    pixelRule mode false p c m (s.withPlane plane present) =
      (pixelRule mode false p c m s).withPlane plane present := by
  cases mode with
  | normal => simp [pixelRule, pixelNormal]
  | colourRemap => simp [pixelRule, pixelColourRemap, pixelLiteral_withPlane, pixelRemapped_withPlane]
  | crashRemap => simp [pixelRule, pixelCrashRemap, pixelLiteral_withPlane, pixelRemapped_withPlane]
  | transparent => simp [pixelRule, pixelTransparent]
  | transparentRemap => simp [pixelRule, pixelTransparentRemap]
  | blackRemap => simp [pixelRule, pixelBlackRemap]

theorem writeClipPixel_withPlane (h : s.latch.anim = false) (rows : List (List Pix)) (y x : Nat) :
    writeClipPixel rows y x (s.withPlane plane present) =
      (writeClipPixel rows y x s).withPlane plane present := by
  unfold writeClipPixel
  rw [State.withPlane_latch, State.withPlane_clipCell, h]
  split
  · exact pixelRule_withPlane plane present s _ _ _ _
  · rfl
  · rfl

theorem writeClipPixel_latch (rows : List (List Pix)) (y x : Nat) : (writeClipPixel rows y x s).latch = s.latch := by
  rw [writeClipPixel_frame]

theorem writeRow_latch (rows : List (List Pix)) (y n : Nat) : (writeRow rows y n s).latch = s.latch := by
  induction n with
  | zero => rfl
  | succ n ih => rw [writeRow, writeClipPixel_latch, ih]

theorem writeRows_latch (rows : List (List Pix)) (width n : Nat) : (writeRows rows width n s).latch = s.latch := by
  induction n with
  | zero => rfl
  | succ n ih => rw [writeRows, writeRow_latch, ih]

theorem writeRow_withPlane (h : s.latch.anim = false) (rows : List (List Pix)) (y n : Nat) :
    writeRow rows y n (s.withPlane plane present) = (writeRow rows y n s).withPlane plane present := by
  induction n with
  | zero => rfl
  | succ n ih =>
    rw [writeRow, ih, writeClipPixel_withPlane _ _ _ (by rw [writeRow_latch, h])]
    rfl

theorem writeRows_withPlane (h : s.latch.anim = false) (rows : List (List Pix)) (width n : Nat) :
    writeRows rows width n (s.withPlane plane present) =
      (writeRows rows width n s).withPlane plane present := by
  induction n with
  | zero => rfl
  | succ n ih =>
    rw [writeRows, ih, writeRow_withPlane _ _ _ (by rw [writeRows_latch, h])]
    rfl

theorem State.writePhase_withPlane (h : s.latch.anim = false) (rows : List (List Pix)) :
    (s.withPlane plane present).writePhase rows = (s.writePhase rows).withPlane plane present :=
  writeRows_withPlane plane present s h rows s.regs.width.toNat s.regs.height.toNat

/-! ## The records -/

/-- Where what a record does to the open row commutes with putting another plane there, so does its outcome. -/
theorem State.onOpenRow_withPlane {f g : Walk → State} (h : ∀ w, g w = (f w).withPlane plane present) :
    (s.withPlane plane present).onOpenRow g = Outcome.withPlane plane present (s.onOpenRow f) := by
  unfold State.onOpenRow
  rw [State.withPlane_openRow]
  cases s.openRow with
  | none => rfl
  | some w => exact congrArg Host.Outcome.next (h w)

theorem execSkipRec_withPlane (m : Byte) (n : Half) :
    execSkipRec m n (s.withPlane plane present) = Outcome.withPlane plane present (execSkipRec m n s) := by
  refine State.onOpenRow_withPlane plane present s fun w => ?_
  split <;> rfl

theorem execDrawRec_withPlane (m : Byte) (n : Half) :
    execDrawRec m n (s.withPlane plane present) = Outcome.withPlane plane present (execDrawRec m n s) := by
  refine State.onOpenRow_withPlane plane present s fun w => ?_
  rw [State.withPlane_drawnPixels, State.withPlane_visibleCount, State.withPlane_visibleFrom]
  split
  · rfl
  · split <;> rfl

theorem execReservedRec_withPlane (cls m : Byte) (n : Half) :
    execReservedRec cls m n (s.withPlane plane present) = Outcome.withPlane plane present (execReservedRec cls m n s) :=
  State.onOpenRow_withPlane plane present s fun _ => rfl

theorem exec_record_withPlane (x : Word) :
    exec (decodeRec x) (s.withPlane plane present) = Outcome.withPlane plane present (exec (decodeRec x) s) := by
  unfold decodeRec
  dsimp only
  split
  · exact execSkipRec_withPlane plane present s (x.extractLsb' 0 8) _
  · split
    · exact execDrawRec_withPlane plane present s _ _
    · exact execReservedRec_withPlane plane present s (x.extractLsb' 8 8) (x.extractLsb' 0 8) (x.extractLsb' 16 16)

/-! ## The parts of the commit step -/

theorem State.beginCommit_withPlane :
    (s.withPlane plane present).beginCommit = s.beginCommit.withPlane plane present := by
  simp [State.beginCommit]

theorem State.skipRow_withPlane (w : Walk) (left : Nat) :
    (s.withPlane plane present).skipRow w left = (s.skipRow w left).withPlane plane present := by
  cases h : s.headersInSrc w <;> simp [State.skipRow, h]

theorem State.startRow_withPlane (w : Walk) :
    (s.withPlane plane present).startRow w = (s.startRow w).withPlane plane present := by
  cases h : s.headersInSrc w <;> simp [State.startRow, h]

end

/-- The fetch of a record, with the decoder's answer named: four bytes are always enough. -/
theorem State.fetchRecord_eq (s : State) (w : Walk) :
    s.fetchRecord w =
      if w.endi < w.pi + 4 then .settled (.next (s.raiseError .streamIndexOverrun))
      else if !s.inSrc w.pi 4 then .settled (.next (s.raiseError .srcRange))
      else .run (decodeRec (s.recordWord w.pi)) (s.setWalk { w with pi := w.pi + 4 }) := rfl

section
variable (plane : List Host.Cell) (present : Bool) (s : State)

theorem State.fetchRecord_withPlane (w : Walk) :
    ((s.withPlane plane present).fetchRecord w).outcome =
      Outcome.withPlane plane present (s.fetchRecord w).outcome := by
  rw [State.fetchRecord_eq, State.fetchRecord_eq, State.withPlane_inSrc]
  split
  · rfl
  · split
    · rfl
    · exact exec_record_withPlane plane present (s.setWalk { w with pi := w.pi + 4 }) (s.recordWord w.pi)

/-- A part of the commit step in progress on the RGB-only path commutes with putting another plane there. -/
theorem step_walk_withPlane {w : Walk} (hw : s.walk = some w) (h : s.latch.anim = false) :
    step (s.withPlane plane present) = Outcome.withPlane plane present (step s) := by
  rw [step_of_walk hw, step_of_walk (s := s.withPlane plane present) hw]
  unfold State.continueWalk
  cases w.phase with
  | skipRows left =>
    cases left with
    | zero => rfl
    | succ left => exact congrArg Host.Outcome.next (State.skipRow_withPlane plane present s w left)
  | rowStart =>
    dsimp only
    rw [State.withPlane_regs]
    split
    · exact congrArg Host.Outcome.next (State.startRow_withPlane plane present s w)
    · rw [State.writePhase_withPlane plane present s h]
      rfl
  | records =>
    dsimp only
    rw [State.withPlane_lim]
    split
    · exact State.fetchRecord_withPlane plane present s w
    · rfl

end

/-- The engine's turn while BUSY begins the commit step. -/
theorem step_facing_engine {s : State} (hw : s.walk = none) (hb : s.busy = true) :
    step (s.facing .engine) = .next s.beginCommit := by
  rw [step_facing hw]
  simp [State.act, State.engineTurn, hb, Event.outcome]

/-- A part of the commit step in progress answers a next state. -/
theorem step_walk_next {s : State} {w : Walk} (hw : s.walk = some w) : ∃ t, step s = .next t := by
  rcases step_walk_cases hw with
    ⟨_, h⟩ | ⟨_, h⟩ | ⟨_, _, _, h⟩ | ⟨_, _, _, h⟩ | ⟨_, _, h⟩ | ⟨_, _, _, _, _, _, _, h⟩ | ⟨_, _, h⟩ <;>
    exact ⟨_, h⟩

/-- A step that commutes with putting any plane there keeps the plane: take the plane that is there already. -/
theorem step_ignores_plane {s t : State} (answers : step s = .next t)
    (commutes : ∀ plane present, step (s.withPlane plane present) = Outcome.withPlane plane present (step s))
    (plane : List Host.Cell) (present : Bool) :
    t.ap = s.ap ∧ step (s.withPlane plane present) = .next (t.withPlane plane present) := by
  have other : ∀ plane present, step (s.withPlane plane present) = .next (t.withPlane plane present) := by
    intro plane present
    rw [commutes, answers]
    rfl
  have own : step s = .next (t.withPlane s.ap s.apPresent) := other s.ap s.apPresent
  have same : t = t.withPlane s.ap s.apPresent := Host.Outcome.next.inj (answers.symm.trans own)
  have kept : t.ap = s.ap :=
    calc t.ap = (t.withPlane s.ap s.apPresent).ap := congrArg State.ap same
      _ = s.ap := rfl
  exact ⟨kept, other plane present⟩

/-- Settles O36: the begin and every part commute with putting another plane there. -/
theorem rgbPathIgnoresAnimationPlane : Obligations.RgbPathIgnoresAnimationPlane := by
  constructor
  · intro s w plane present hw hrgb
    obtain ⟨t, ht⟩ := step_walk_next hw
    exact ⟨t, ht, step_ignores_plane ht (fun _ _ => step_walk_withPlane _ _ s hw hrgb) plane present⟩
  · intro s plane present hw hb _
    have begins := step_facing_engine hw hb
    refine ⟨_, begins, step_ignores_plane begins (fun plane present => ?_) plane present⟩
    calc step ((s.withPlane plane present).facing .engine)
        = .next (s.withPlane plane present).beginCommit := step_facing_engine hw hb
      _ = .next (s.beginCommit.withPlane plane present) := by rw [State.beginCommit_withPlane]
      _ = Outcome.withPlane plane present (step (s.facing .engine)) := by rw [begins]; rfl

end Sys2Proof.Machine
end

section
/-! The walk's way through the two streams (42_rle_decoder_clipper.md, R144 to R152): where it starts, and what it does at
the headers of a skipped and of a drawn row and at the end of a row. -/

namespace Sys2Proof.Machine

/-! ## Reading SRC -/

theorem State.inSrc_iff {s : State} {addr n : Nat} : s.inSrc addr n = true ↔ addr + n ≤ s.params.srcSize := by
  simp [State.inSrc]

theorem State.headersInSrc_iff {s : State} {w : Walk} :
    s.headersInSrc w = true ↔ w.hc + 4 ≤ s.params.srcSize ∧ w.hi + 4 ≤ s.params.srcSize := by
  simp [State.headersInSrc, State.inSrc_iff]

/-- A 4-byte field is little-endian (R52). -/
theorem State.srcRead_four (s : State) (a : Nat) :
    s.srcRead a 4 = (s.srcAt a).toNat + 2 ^ 8 * (s.srcAt (a + 1)).toNat + 2 ^ 16 * (s.srcAt (a + 2)).toNat +
      2 ^ 24 * (s.srcAt (a + 3)).toNat := by
  simp only [State.srcRead, Nat.add_assoc, Nat.reduceAdd]
  omega

/-! ## The start of the walk (R144) -/

theorem State.checksHold_iff (s : State) : s.checksHold = true ↔
    s.latch.zoom.toNat < s.params.nzoom ∧ s.emptyClip = false ∧ s.dstLegal = true ∧
    (s.latch.mode.usesRemap = true → s.latch.remapEn = true ∧ s.inSrc s.regs.remapBase.toNat 256 = true) := by
  cases hu : s.latch.mode.usesRemap <;> simp [State.checksHold, hu, and_assoc]

/-- After R143's checks, only the offset-table entry is left to check. -/
theorem State.beginCommit_of_checksHold {s : State} (h : s.checksHold = true) :
    s.beginCommit = if s.inSrc s.tableEntry 8 then s.setWalk s.startWalk else s.raiseError .srcRange := by
  obtain ⟨zoom, clip, dst, remap⟩ := s.checksHold_iff.1 h
  have zoom' : ¬ s.params.nzoom ≤ s.latch.zoom.toNat := by omega
  cases hu : s.latch.mode.usesRemap with
  | false => cases ht : s.inSrc s.tableEntry 8 <;> simp [State.beginCommit, zoom', clip, dst, hu, ht]
  | true =>
    obtain ⟨given, table⟩ := remap hu
    cases ht : s.inSrc s.tableEntry 8 <;> simp [State.beginCommit, zoom', clip, dst, hu, given, table, ht]

/-- Settles O24: the checks hold, so the entry alone decides between the walk and SRC_RANGE. -/
theorem walkStartsAtZoomStreams : Obligations.WalkStartsAtZoomStreams := by
  intro s hw hb checks
  have begins := step_facing_engine hw hb
  rw [State.beginCommit_of_checksHold checks] at begins
  refine ⟨fun outside => ?_, fun inside => ⟨s.startWalk, ?_, rfl, rfl, rfl, rfl, rfl⟩, s.srcRead_four⟩
  · have entry : ¬ s.inSrc s.tableEntry 8 = true := fun h => absurd (State.inSrc_iff.1 h) (Nat.not_le.2 outside)
    rw [if_neg entry] at begins
    exact begins
  · have entry : s.inSrc s.tableEntry 8 = true := State.inSrc_iff.2 inside
    rw [if_pos entry] at begins
    exact begins

/-! ## The parts of a walk as steps -/

section
variable {s : State} {w : Walk} (hw : s.walk = some w)
include hw

theorem step_skipRow {left : Nat} (hp : w.phase = .skipRows (left + 1)) : step s = .next (s.skipRow w left) := by
  rw [step_of_walk hw, State.continueWalk, hp]
  rfl

theorem step_startRow (hp : w.phase = .rowStart) (hy : w.y < s.regs.height.toNat) : step s = .next (s.startRow w) := by
  rw [step_of_walk hw, State.continueWalk, hp]
  simp only [if_pos hy, Event.outcome]

theorem step_writePhase (hp : w.phase = .rowStart) (hy : s.regs.height.toNat ≤ w.y) :
    step s = .next (s.writePhase w.rows).complete := by
  rw [step_of_walk hw, State.continueWalk, hp]
  simp only [if_neg (Nat.not_lt.2 hy), Event.outcome]

theorem step_finishRow (hp : w.phase = .records) (hc : s.lim ≤ w.col) : step s = .next (s.setWalk w.finishRow) := by
  rw [step_of_walk hw, State.continueWalk, hp]
  simp only [if_neg (Nat.not_lt.2 hc), Event.outcome]

end

/-- The header check that skipped and drawn rows share: it fails exactly when a header is outside SRC. -/
theorem State.ite_headersInSrc (s : State) (w : Walk) (t u : State) :
    ((w.hc + 4 ≤ s.params.srcSize ∧ w.hi + 4 ≤ s.params.srcSize) → (if s.headersInSrc w then t else u) = t) ∧
    ((s.params.srcSize < w.hc + 4 ∨ s.params.srcSize < w.hi + 4) → (if s.headersInSrc w then t else u) = u) := by
  constructor
  · intro inside
    exact if_pos (State.headersInSrc_iff.2 inside)
  · intro outside
    refine if_neg fun h => ?_
    have inside := State.headersInSrc_iff.1 h
    omega

/-- Settles O25: `State.skipRow`, on either side of its header check. -/
theorem skippedRowFollowsHeaders : Obligations.SkippedRowFollowsHeaders := by
  intro s w left hw hp
  rw [step_skipRow hw hp]
  obtain ⟨inside, outside⟩ := s.ite_headersInSrc w _ _
  exact ⟨fun h => congrArg Host.Outcome.next (inside h), fun h => congrArg Host.Outcome.next (outside h)⟩

/-- Settles O26: `State.startRow`, on either side of its header check. -/
theorem drawnRowReadsHeaders : Obligations.DrawnRowReadsHeaders := by
  intro s w hw hp hy
  rw [step_startRow hw hp hy]
  obtain ⟨inside, outside⟩ := s.ite_headersInSrc w _ _
  exact ⟨fun h => congrArg Host.Outcome.next (inside h), fun h => congrArg Host.Outcome.next (outside h)⟩

/-- Settles O27: `col` has reached `lim`, and the step is `Walk.finishRow`. -/
theorem finishedRowMovesToNextHeaders : Obligations.FinishedRowMovesToNextHeaders := by
  intro s w hw hp hc
  exact step_finishRow hw hp hc

end Sys2Proof.Machine
end

section
/-! The write phase (42_rle_decoder_clipper.md, R155, R156; 20_memory.md, R65): a pixel rule looks at its own cell only, the
clip's cells are all different, and so each holds in the end what its rule gives on the planes as they were. -/

namespace Sys2Proof.Machine

/-! ## One cell of the two planes -/

/-- FB and AP hold the same at cell `p`. -/
def State.sameCell (p : Nat) (s t : State) : Prop := t.fbAt p = s.fbAt p ∧ t.apAt p = s.apAt p

theorem State.sameExceptCell_iff {p : Nat} {s t : State} :
    s.sameExceptCell p t ↔ t = { s with fb := t.fb, ap := t.ap } ∧ ∀ q, q ≠ p → s.sameCell q t := Iff.rfl

theorem State.sameCell.refl (p : Nat) (s : State) : s.sameCell p s := ⟨rfl, rfl⟩

theorem State.sameCell.trans {p : Nat} {s t u : State} (h : s.sameCell p t) (h' : t.sameCell p u) : s.sameCell p u :=
  ⟨h'.1.trans h.1, h'.2.trans h.2⟩

/-- Two states that a pixel rule at cell `p` cannot tell apart: they differ in FB and AP only, and not at `p`. -/
structure State.AlikeAt (p : Nat) (s t : State) : Prop where
  frame : t = { s with fb := t.fb, ap := t.ap }
  wf_left : s.memWf = true
  wf_right : t.memWf = true
  exists_cell : p < s.params.fbPixels
  same : s.sameCell p t

namespace State.AlikeAt
variable {p : Nat} {s t : State} (h : s.AlikeAt p t)
include h

theorem params : t.params = s.params := by rw [h.frame]
theorem latch : t.latch = s.latch := by rw [h.frame]
theorem clipCell (y x : Nat) : t.clipCell y x = s.clipCell y x := by rw [h.frame]; rfl
theorem remap (i : Byte) : t.remap i = s.remap i := by rw [h.frame]; rfl
theorem palLookup (i : Byte) : t.palLookup i = s.palLookup i := by rw [h.frame]; rfl
theorem palNearest (c : Colour) : t.palNearest c = s.palNearest c := by rw [h.frame]; rfl

theorem bg (anim : Bool) : t.bg anim p = s.bg anim p := by
  obtain ⟨fbAt, apAt⟩ := h.same
  simp only [State.bg, fbAt, apAt]

theorem setFb (c : Colour) : (s.setFb p c).AlikeAt p (t.setFb p c) where
  frame := by rw [h.frame]; rfl
  wf_left := setFb_memWf h.wf_left h.exists_cell c
  wf_right := setFb_memWf h.wf_right (h.params ▸ h.exists_cell) c
  exists_cell := h.exists_cell
  same := ⟨by rw [setFb_fbAt_same h.wf_left, setFb_fbAt_same h.wf_right], h.same.2⟩

theorem setAp (v : Byte) : (s.setAp p v).AlikeAt p (t.setAp p v) where
  frame := by rw [h.frame]; rfl
  wf_left := setAp_memWf h.wf_left h.exists_cell v
  wf_right := setAp_memWf h.wf_right (h.params ▸ h.exists_cell) v
  exists_cell := h.exists_cell
  same := ⟨h.same.1, by rw [setAp_apAt_same h.wf_left, setAp_apAt_same h.wf_right]⟩

theorem putPixel (anim : Bool) (c : Colour) (v : Byte) : (s.putPixel anim p c v).AlikeAt p (t.putPixel anim p c v) := by
  cases anim with
  | false => exact h.setFb c
  | true => exact (h.setFb c).setAp v

theorem pixelLiteral (anim : Bool) (c lit : Colour) :
    (pixelLiteral anim p c lit s).AlikeAt p (pixelLiteral anim p c lit t) := by
  unfold Machine.pixelLiteral
  rw [h.bg]
  split <;> exact h.putPixel _ _ _

theorem pixelRemapped (anim : Bool) (c : Colour) (m : Byte) :
    (pixelRemapped anim p c m s).AlikeAt p (pixelRemapped anim p c m t) := by
  unfold Machine.pixelRemapped
  rw [h.remap, h.palLookup, h.bg]
  split
  · exact h
  · split <;> exact h.putPixel _ _ _

theorem pixelTransparentRemap (anim : Bool) :
    (pixelTransparentRemap anim p s).AlikeAt p (pixelTransparentRemap anim p t) := by
  obtain ⟨fbAt, apAt⟩ := h.same
  unfold Machine.pixelTransparentRemap
  simp only [fbAt, apAt, h.palNearest, h.remap, h.palLookup]
  split
  · split <;> exact h.setAp _
  · exact h.setFb _

/-- A pixel rule looks at its own cell, SRC and the parameters only. -/
theorem pixelRule (mode : Mode) (anim : Bool) (c : Colour) (m : Byte) :
    (pixelRule mode anim p c m s).AlikeAt p (pixelRule mode anim p c m t) := by
  cases mode with
  | normal =>
    simp only [Machine.pixelRule, pixelNormal, h.bg]
    split <;> exact h.putPixel _ _ _
  | colourRemap =>
    simp only [Machine.pixelRule, pixelColourRemap]
    split
    · exact h.pixelLiteral _ _ _
    · exact h.pixelRemapped _ _ _
  | crashRemap =>
    simp only [Machine.pixelRule, pixelCrashRemap]
    split
    · exact h.pixelLiteral _ _ _
    · exact h.pixelRemapped _ _ _
  | transparent =>
    simp only [Machine.pixelRule, pixelTransparent, h.bg]
    split <;> exact h.putPixel _ _ _
  | transparentRemap => exact h.pixelTransparentRemap _
  | blackRemap => exact h.putPixel _ _ _

end State.AlikeAt

/-- A pixel rule changes its own cell only. -/
theorem pixelRule_sameExceptCell {s : State} (h : s.memWf = true) (mode : Mode) (anim : Bool) (p : Nat) (c : Colour)
    (m : Byte) : s.sameExceptCell p (pixelRule mode anim p c m s) := by
  refine ⟨pixelRule_frame mode anim p c m s, fun q hq => ?_⟩
  rcases pixelRule_cases mode anim p c m s with e | ⟨_, c', e⟩ | ⟨_, c', v, e⟩ | ⟨_, v, e⟩ <;> rw [e]
  · exact ⟨rfl, rfl⟩
  · exact ⟨State.setFb_fbAt_other h hq c', rfl⟩
  · exact ⟨State.setFb_fbAt_other h hq c', State.setAp_apAt_other (s := s) h hq v⟩
  · exact ⟨rfl, State.setAp_apAt_other h hq v⟩

/-! ## One clip pixel -/

theorem writeClipPixel_of_draw {rows : List (List Pix)} {y x : Nat} {c : Colour} {m : Byte}
    (h : pixAt rows y x = some (.draw c m)) (s : State) :
    writeClipPixel rows y x s = pixelRule s.latch.mode s.latch.anim (s.clipCell y x) c m s := by
  simp only [writeClipPixel, h]

theorem writeClipPixel_of_not_draw {rows : List (List Pix)} {y x : Nat} (h : ∀ c m, pixAt rows y x ≠ some (.draw c m))
    (s : State) : writeClipPixel rows y x s = s := by
  unfold writeClipPixel
  split
  · exact absurd ‹_› (h _ _)
  · rfl
  · rfl

theorem writeClipPixel_sameExceptCell {s : State} (h : s.memWf = true) (rows : List (List Pix)) (y x : Nat) :
    s.sameExceptCell (s.clipCell y x) (writeClipPixel rows y x s) := by
  unfold writeClipPixel
  split
  · exact pixelRule_sameExceptCell h _ _ _ _ _
  · exact ⟨rfl, fun _ _ => ⟨rfl, rfl⟩⟩
  · exact ⟨rfl, fun _ _ => ⟨rfl, rfl⟩⟩

theorem State.AlikeAt.writeClipPixel {s t : State} {y x : Nat} (h : s.AlikeAt (s.clipCell y x) t)
    (rows : List (List Pix)) :
    (writeClipPixel rows y x s).AlikeAt (s.clipCell y x) (writeClipPixel rows y x t) := by
  unfold Machine.writeClipPixel
  rw [h.latch, h.clipCell]
  split
  · exact h.pixelRule _ _ _ _
  · exact h
  · exact h

/-! ## The clip's cells -/

/-- The clip pixels `(y, x)` in the order of the write phase (R155). -/
def clipPixels (height width : Nat) : List (Nat × Nat) := List.range height ×ˢ List.range width

@[simp] theorem mem_clipPixels {height width : Nat} {q : Nat × Nat} :
    q ∈ clipPixels height width ↔ q.1 < height ∧ q.2 < width := by
  obtain ⟨y, x⟩ := q
  simp [clipPixels]

theorem clipPixels_nodup (height width : Nat) : (clipPixels height width).Nodup :=
  List.nodup_range.product List.nodup_range

/-- `q` = (y, x) is a pixel of the clip. -/
def State.inClip (s : State) (q : Nat × Nat) : Prop := q.1 < s.regs.height.toNat ∧ q.2 < s.regs.width.toNat

/-- The rows of a legal destination do not overlap (R143), so different clip pixels have different cells. -/
theorem State.clipCell_ne {s : State} (legal : s.dstLegal = true) {q r : Nat × Nat} (hq : s.inClip q) (hr : s.inClip r)
    (ne : q ≠ r) : s.clipCell q.1 q.2 ≠ s.clipCell r.1 r.2 := by
  obtain ⟨y, x⟩ := q
  obtain ⟨y', x'⟩ := r
  simp only [State.dstLegal, Bool.and_eq_true, Bool.or_eq_true, decide_eq_true_eq] at legal
  simp only [State.inClip] at hq hr
  simp only [ne_eq, Prod.mk.injEq] at ne
  simp only [State.clipCell]
  have later : ∀ a b, a < b → a * s.regs.dstPitch.toNat + s.regs.dstPitch.toNat ≤ b * s.regs.dstPitch.toNat :=
    fun a b hab => by rw [← Nat.succ_mul]; exact Nat.mul_le_mul_right _ hab
  rcases Nat.lt_trichotomy y y' with lt | rfl | gt
  · have := later y y' lt
    omega
  · omega
  · have := later y' y gt
    omega

theorem writeClipPixel_memWf {s : State} (wf : s.memWf = true) (legal : s.dstLegal = true) {q : Nat × Nat}
    (clip : s.inClip q) (rows : List (List Pix)) : (writeClipPixel rows q.1 q.2 s).memWf = true := by
  obtain ⟨hy, hx⟩ := clip
  unfold writeClipPixel
  split
  · exact pixelRule_memWf wf (State.clipCell_lt legal hy hx) _ _ _ _
  · exact wf
  · exact wf

/-! ## The write phase -/

/-- The clip pixels of a list, one after another. -/
def writePixels (rows : List (List Pix)) (qs : List (Nat × Nat)) (s : State) : State :=
  qs.foldl (fun t q => writeClipPixel rows q.1 q.2 t) s

theorem writePixels_cons (rows : List (List Pix)) (q : Nat × Nat) (qs : List (Nat × Nat)) (s : State) :
    writePixels rows (q :: qs) s = writePixels rows qs (writeClipPixel rows q.1 q.2 s) := rfl

theorem writePixels_append (rows : List (List Pix)) (qs rs : List (Nat × Nat)) (s : State) :
    writePixels rows (qs ++ rs) s = writePixels rows rs (writePixels rows qs s) := List.foldl_append

theorem writeRow_eq_writePixels (rows : List (List Pix)) (y n : Nat) (s : State) :
    writeRow rows y n s = writePixels rows ((List.range n).map (y, ·)) s := by
  induction n with
  | zero => rfl
  | succ n ih =>
    rw [writeRow, ih, List.range_succ, List.map_append, writePixels_append]
    rfl

theorem writeRows_eq_writePixels (rows : List (List Pix)) (width n : Nat) (s : State) :
    writeRows rows width n s = writePixels rows (clipPixels n width) s := by
  induction n with
  | zero => rfl
  | succ n ih =>
    have lastRow : clipPixels (n + 1) width = clipPixels n width ++ (List.range width).map (n, ·) := by
      simp [clipPixels, SProd.sprod, List.product, List.range_succ]
    rw [writeRows, ih, writeRow_eq_writePixels, lastRow, writePixels_append]

/-- A part of the clip, each pixel once: a cell of none of its pixels is kept, and the cell of each of them holds what that
pixel alone gives on the planes as they were. -/
theorem writePixels_pointwise (rows : List (List Pix)) {qs : List (Nat × Nat)} {s : State} (wf : s.memWf = true)
    (legal : s.dstLegal = true) (clip : ∀ q ∈ qs, s.inClip q) (nodup : qs.Nodup) :
    (∀ p, (∀ q ∈ qs, p ≠ s.clipCell q.1 q.2) → s.sameCell p (writePixels rows qs s)) ∧
    ∀ q ∈ qs, (writeClipPixel rows q.1 q.2 s).sameCell (s.clipCell q.1 q.2) (writePixels rows qs s) := by
  induction qs generalizing s with
  | nil => exact ⟨fun p _ => .refl p s, fun _ hq => absurd hq List.not_mem_nil⟩
  | cons first rest ih =>
    obtain ⟨fresh, nodup⟩ := List.nodup_cons.1 nodup
    obtain ⟨firstClip, restClip⟩ := List.forall_mem_cons.1 clip
    obtain ⟨frame, others⟩ := State.sameExceptCell_iff.1 (writeClipPixel_sameExceptCell wf rows first.1 first.2)
    have wf' : (writeClipPixel rows first.1 first.2 s).memWf = true := writeClipPixel_memWf wf legal firstClip rows
    obtain ⟨kept, each⟩ := ih wf' (by rwa [frame]) (by rwa [frame]) nodup
    have cells : (writeClipPixel rows first.1 first.2 s).clipCell = s.clipCell := by rw [frame]; rfl
    rw [cells] at kept each
    have apart : ∀ q ∈ rest, s.clipCell q.1 q.2 ≠ s.clipCell first.1 first.2 := fun q hq =>
      State.clipCell_ne legal (restClip q hq) firstClip (ne_of_mem_of_not_mem hq fresh)
    rw [writePixels_cons]
    constructor
    · intro p hp
      obtain ⟨notFirst, notRest⟩ := List.forall_mem_cons.1 hp
      exact (others p notFirst).trans (kept p notRest)
    · intro q hq
      rcases List.mem_cons.1 hq with rfl | hq
      · exact kept _ fun r hr => (apart r hr).symm
      · obtain ⟨hy, hx⟩ := restClip q hq
        have alike : s.AlikeAt (s.clipCell q.1 q.2) (writeClipPixel rows first.1 first.2 s) :=
          ⟨frame, wf, wf', State.clipCell_lt legal hy hx, others _ (apart q hq)⟩
        exact (alike.writeClipPixel rows).same.trans (each q hq)

section
variable {s : State} (wf : s.memWf = true) (legal : s.dstLegal = true) (rows : List (List Pix))
include wf legal

/-- R155 with R65: the write phase leaves at a clip cell what the clip pixel alone gives on the planes as they were. -/
theorem writePhase_clipCell {y x : Nat} (hy : y < s.regs.height.toNat) (hx : x < s.regs.width.toNat) :
    (writeClipPixel rows y x s).sameCell (s.clipCell y x) (s.writePhase rows) := by
  rw [State.writePhase, writeRows_eq_writePixels]
  exact (writePixels_pointwise rows wf legal (fun _ => mem_clipPixels.1) (clipPixels_nodup _ _)).2 (y, x)
    (mem_clipPixels.2 ⟨hy, hx⟩)

/-- R156: the write phase keeps every cell outside the clip. -/
theorem writePhase_not_isClipCell {p : Nat} (outside : ¬ s.isClipCell p) : s.sameCell p (s.writePhase rows) := by
  rw [State.writePhase, writeRows_eq_writePixels]
  refine (writePixels_pointwise rows wf legal (fun _ => mem_clipPixels.1) (clipPixels_nodup _ _)).1 p fun q hq same => ?_
  obtain ⟨hy, hx⟩ := mem_clipPixels.1 hq
  exact outside ⟨q.1, q.2, hy, hx, same⟩

end

/-! ## The statements -/

/-- What the invariant gives while a walk is in progress. -/
theorem State.Inv.of_walk {s : State} {w : Walk} (inv : s.Inv) (hw : s.walk = some w) :
    s.status.err = false ∧ s.dstLegal = true ∧ s.memWf = true := by
  obtain ⟨status, -, walk, wf⟩ := inv
  simp only [State.walkWf, hw, Bool.and_eq_true] at walk
  obtain ⟨⟨busy, checks⟩, -⟩ := walk
  obtain ⟨-, -, legal, -⟩ := s.checksHold_iff.1 checks
  simp only [State.statusWf, busy, Bool.and_eq_true, Bool.true_and, Bool.not_eq_true'] at status
  obtain ⟨⟨⟨⟨-, noErr⟩, -⟩, -⟩, -⟩ := status
  exact ⟨noErr, legal, wf⟩

/-- Settles O34: the step is the write phase and the end of the command, and each clip cell is as `writePhase_clipCell`
says. -/
theorem writePhaseIsPointwise : Obligations.WritePhaseIsPointwise := by
  rintro s w inv ⟨hw, hp, hy⟩
  obtain ⟨noErr, legal, wf⟩ := inv.of_walk hw
  refine ⟨_, step_writePhase hw hp hy.ge, rfl, rfl, ?_, rfl, fun y x hy hx => ?_⟩
  · rw [State.complete_status, writePhase_frame]
    exact noErr
  · have cell := writePhase_clipCell wf legal w.rows hy hx
    constructor
    · intro c m drawn
      rwa [writeClipPixel_of_draw drawn] at cell
    · intro skipped
      rwa [writeClipPixel_of_not_draw (by simp [skipped])] at cell

/-- The engine's turn settles the parameter checks and touches neither plane. -/
theorem State.engineTurn_planes (s : State) : s.engineTurn.fb = s.fb ∧ s.engineTurn.ap = s.ap := by
  unfold State.engineTurn
  split
  · rcases s.beginCommit_cases with ⟨e, h⟩ | ⟨_, h⟩ | ⟨_, _, _, _, _, h⟩ <;> rw [h] <;> exact ⟨rfl, rfl⟩
  · exact ⟨rfl, rfl⟩

/-- A step of a walk keeps both planes, or it is the write phase and the end of the command. -/
theorem step_walk_planes {s t : State} {w : Walk} (hw : s.walk = some w) (taken : step s = .next t) :
    (t.fb = s.fb ∧ t.ap = s.ap) ∨ t = (s.writePhase w.rows).complete := by
  rcases step_walk_cases hw with
    ⟨_, h⟩ | ⟨_, h⟩ | ⟨_, _, _, h⟩ | ⟨_, _, _, h⟩ | ⟨_, _, h⟩ | ⟨_, _, _, _, _, _, _, h⟩ | ⟨_, _, h⟩ <;>
    cases h.symm.trans taken
  any_goals exact .inl ⟨rfl, rfl⟩
  exact .inr rfl

/-- Settles O35: a cell that a walk's step changes is changed by the write phase, so it is a clip cell, and its clip pixel
alone changes it, which only a DRAW pixel does. -/
theorem drawWritesOnlyDrawnClipCells : Obligations.DrawWritesOnlyDrawnClipCells := by
  constructor
  · intro s hw
    exact ⟨s.engineTurn, step_facing hw .engine, s.engineTurn_planes⟩
  · intro s t w p inv hw taken changed
    obtain ⟨-, legal, wf⟩ := inv.of_walk hw
    rcases step_walk_planes hw taken with ⟨fb, ap⟩ | rfl
    · simp [State.fbAt, State.apAt, fb, ap] at changed
    · have changed : ¬ s.sameCell p (s.writePhase w.rows) := not_and_or.2 changed
      by_cases clip : s.isClipCell p
      · obtain ⟨y, x, hy, hx, rfl⟩ := clip
        have cell := writePhase_clipCell wf legal w.rows hy hx
        by_cases drawn : ∃ c m, pixAt w.rows y x = some (.draw c m)
        · obtain ⟨c, m, drawn⟩ := drawn
          rw [writeClipPixel_of_draw drawn] at cell
          refine ⟨y, x, c, m, hy, hx, rfl, rfl, drawn, not_and_or.1 fun kept => changed ?_⟩
          exact State.sameCell.trans kept cell
        · rw [writeClipPixel_of_not_draw fun c m h => drawn ⟨c, m, h⟩] at cell
          exact absurd cell changed
      · exact absurd (writePhase_not_isClipCell wf legal w.rows clip) changed

end Sys2Proof.Machine
end

section
/-! The pixel rules of the blend modes (43_draw_modes.md, R172 to R186): one equation for each case of a rule, what such a
store leaves at its cell, and what a whole DRAW then leaves there. -/

namespace Sys2Proof.Machine

/-! ## The store of a pixel rule -/

/-- What a rule that comes down to one store leaves at its own cell. -/
theorem State.putPixel_cell {s t : State} (wf : s.memWf = true) {anim : Bool} {p : Nat} {c : Colour} {v : Byte}
    (store : t = s.putPixel anim p c v) : t.fbAt p = c ∧ (anim = true → t.apAt p = v) := by
  subst store
  cases anim with
  | false => exact ⟨State.setFb_fbAt_same wf p c, nofun⟩
  | true => exact ⟨State.setFb_fbAt_same wf p c, fun _ => State.setAp_apAt_same (s := s) wf p v⟩

/-- The opaque and the partial case of a rule (R170) are one store. -/
theorem putPixel_by_opacity (s : State) (anim : Bool) (p : Nat) (c lit blend : Colour) (u v : Byte) :
    (if opaquePixel c then s.putPixel anim p lit u else s.putPixel anim p blend v) =
      s.putPixel anim p (if c.a = 255#8 then lit else blend) (if c.a = 255#8 then u else v) := by
  by_cases h : c.a = 255#8 <;> simp [opaquePixel, h]

/-- R131 for one pixel. -/
theorem pixelRule_ap_of_rgb {anim : Bool} (rgb : anim = false) (mode : Mode) (p : Nat) (c : Colour) (m : Byte)
    (s : State) : (pixelRule mode anim p c m s).ap = s.ap := by
  rcases pixelRule_cases mode anim p c m s with h | ⟨-, _, h⟩ | ⟨onAnim, -⟩ | ⟨onAnim, -⟩
  · rw [h]
  · rw [h, State.setFb_ap]
  · exact absurd (rgb.symm.trans onAnim) Bool.false_ne_true
  · exact absurd (rgb.symm.trans onAnim) Bool.false_ne_true

/-! ## An equation for each case of a rule -/

section
variable (anim : Bool) (p : Nat) (c : Colour) {m : Byte} (s : State)

/-- R172, R173. -/
theorem pixelRule_normal (m : Byte) : pixelRule .normal anim p c m s =
    s.putPixel anim p (if c.a = 255#8 then c else compose c c.a (s.bg anim p)) (if c.a = 255#8 then m else 0#8) :=
  putPixel_by_opacity ..

theorem pixelLiteral_eq (lit : Colour) : pixelLiteral anim p c lit s =
    s.putPixel anim p (if c.a = 255#8 then lit else compose lit c.a (s.bg anim p)) 0#8 := by
  rw [pixelLiteral, putPixel_by_opacity, ite_self]

/-- R174, R175: the literal draw. -/
theorem pixelRule_colourRemap_literal : pixelRule .colourRemap anim p c 0#8 s =
    s.putPixel anim p (if c.a = 255#8 then c else compose c c.a (s.bg anim p)) 0#8 :=
  pixelLiteral_eq ..

/-- R176, R177: the literal draw, darkened. -/
theorem pixelRule_crashRemap_literal : pixelRule .crashRemap anim p c 0#8 s =
    s.putPixel anim p (if c.a = 255#8 then darken c else compose (darken c) c.a (s.bg anim p)) 0#8 :=
  pixelLiteral_eq ..

/-- R174, R175: the suppressed pixel. -/
theorem pixelRule_colourRemap_suppressed (hm : m ≠ 0#8) (hr : s.remap m = 0#8) :
    pixelRule .colourRemap anim p c m s = s := by
  simp only [pixelRule, pixelColourRemap, pixelRemapped, if_neg hm, if_pos hr]

/-- R174, R175: the remapped draw. -/
theorem pixelRule_colourRemap_remapped (hm : m ≠ 0#8) (hr : s.remap m ≠ 0#8) :
    pixelRule .colourRemap anim p c m s =
      s.putPixel anim p
        (if c.a = 255#8 then s.palLookup (s.remap m) else compose (s.palLookup (s.remap m)) c.a (s.bg anim p))
        (if c.a = 255#8 then s.remap m else 0#8) := by
  simp only [pixelRule, pixelColourRemap, pixelRemapped, if_neg hm, if_neg hr, putPixel_by_opacity]

/-- R176, R177: the two remapping modes differ for `m = 0` only. -/
theorem pixelRule_crashRemap_of_index (hm : m ≠ 0#8) :
    pixelRule .crashRemap anim p c m s = pixelRule .colourRemap anim p c m s := by
  simp only [pixelRule, pixelCrashRemap, pixelColourRemap, if_neg hm]

/-- R180: a cell that carries an index. -/
theorem pixelRule_transparentRemap_of_index (m : Byte) (h : s.apAt p ≠ 0#8) :
    pixelRule .transparentRemap true p c m s = s.setAp p (s.remap (s.apAt p)) := by
  simp only [pixelRule, pixelTransparentRemap, if_true, if_pos h]

/-- R180: a cell that carries no index. -/
theorem pixelRule_transparentRemap_of_no_index (m : Byte) (h : s.apAt p = 0#8) :
    pixelRule .transparentRemap true p c m s = s.setAp p (s.remap (s.palNearest (s.fbAt p))) := by
  simp only [pixelRule, pixelTransparentRemap, if_true, if_neg (not_not.2 h)]

/-- R181. -/
theorem pixelRule_transparentRemap_rgb (m : Byte) : pixelRule .transparentRemap false p c m s =
    s.setFb p (s.palLookup (s.remap (s.palNearest (s.fbAt p)))) := rfl

/-- R182, R183. -/
theorem pixelRule_blackRemap (m : Byte) : pixelRule .blackRemap anim p c m s = s.putPixel anim p black 0#8 := rfl

end

/-! ## The statements about one pixel -/

/-- Settles O40: both cases are the store of `pixelRule_normal`. -/
theorem normalPixel : Obligations.NormalPixel := by
  intro s anim p c m wf _
  refine ⟨pixelRule_sameExceptCell wf .., ?_⟩
  obtain ⟨fb, ap⟩ := State.putPixel_cell wf (pixelRule_normal anim p c s m)
  exact ⟨fun full => by rw [fb, if_pos full], fun part => by rw [fb, if_neg part], ap,
    fun rgb => pixelRule_ap_of_rgb rgb ..⟩

/-- Settles O41: the literal, the suppressed and the remapped case, each by its equation. -/
theorem colourRemapPixel : Obligations.ColourRemapPixel := by
  intro s anim p c m wf _
  refine ⟨pixelRule_sameExceptCell wf .., fun rgb => pixelRule_ap_of_rgb rgb .., ?_,
    pixelRule_colourRemap_suppressed anim p c s, fun hm hr => ?_⟩
  · rintro rfl
    exact State.putPixel_cell wf (pixelRule_colourRemap_literal anim p c s)
  · exact State.putPixel_cell wf (pixelRule_colourRemap_remapped anim p c s hm hr)

/-- Settles O42: `m = 0` is the darkened literal draw, whose alpha is the source's, and any other `m` is ColourRemap's. -/
theorem crashRemapPixel : Obligations.CrashRemapPixel := by
  intro s anim p c m wf _
  refine ⟨pixelRule_sameExceptCell wf .., fun rgb => pixelRule_ap_of_rgb rgb .., ?_,
    pixelRule_crashRemap_of_index anim p c s⟩
  rintro rfl
  obtain ⟨fb, ap⟩ := State.putPixel_cell wf (pixelRule_crashRemap_literal anim p c s)
  have darken_alpha : (darken c).a = c.a := rfl
  exact ⟨fb, fun full => by rw [fb, if_pos full, darken_alpha, full], ap⟩

/-- Settles O44: the animated path, with and without an index at the cell, stores in AP only, and the RGB-only path in FB
only. -/
theorem transparentRemapPixel : Obligations.TransparentRemapPixel := by
  intro s anim p c m wf
  refine ⟨pixelRule_sameExceptCell wf .., ?_, ?_⟩
  · rintro rfl
    by_cases index : s.apAt p = 0#8
    · rw [pixelRule_transparentRemap_of_no_index p c s m index]
      exact ⟨rfl, fun h => absurd index h, fun _ => State.setAp_apAt_same wf ..⟩
    · rw [pixelRule_transparentRemap_of_index p c s m index]
      exact ⟨rfl, fun _ => State.setAp_apAt_same wf .., fun h => absurd h index⟩
  · rintro rfl
    rw [pixelRule_transparentRemap_rgb]
    exact ⟨rfl, State.setFb_fbAt_same wf ..⟩

/-- Settles O45: the store of BLACK and 0 reads nothing of the source. -/
theorem blackRemapPixel : Obligations.BlackRemapPixel := by
  intro s anim p c m wf
  obtain ⟨fb, ap⟩ := State.putPixel_cell wf (pixelRule_blackRemap anim p c s m)
  exact ⟨pixelRule_sameExceptCell wf .., fb, ap, fun rgb => pixelRule_ap_of_rgb rgb ..⟩

/-! ## The statements about a whole DRAW -/

/-- The end of a DRAW leaves in the cell of a drawn clip pixel what its rule gives on the planes as they were. -/
theorem step_drawnCell {s t : State} {w : Walk} {y x : Nat} {c : Colour} {m : Byte} (inv : s.Inv)
    (ready : s.readyToWrite w) (taken : step s = .next t) (hy : y < s.regs.height.toNat) (hx : x < s.regs.width.toNat)
    (drawn : pixAt w.rows y x = some (.draw c m)) :
    (pixelRule s.latch.mode s.latch.anim (s.clipCell y x) c m s).sameCell (s.clipCell y x) t := by
  obtain ⟨u, reached, -, -, -, -, cells⟩ := writePhaseIsPointwise s w inv ready
  cases reached.symm.trans taken
  exact (cells y x hy hx).1 c m drawn

/-- Settles O37: `blackRemapPixel` at the cell of each drawn pixel. -/
theorem blackRemapBlackensEveryPixel : Obligations.BlackRemapBlackensEveryPixel := by
  intro s t w y x c m inv ready mode taken hy hx drawn
  obtain ⟨-, -, wf⟩ := inv.of_walk ready.1
  obtain ⟨fb, ap⟩ := step_drawnCell inv ready taken hy hx drawn
  obtain ⟨-, isBlack, noIndex, -⟩ := blackRemapPixel s s.latch.anim (s.clipCell y x) c m wf
  rw [mode] at fb ap
  exact ⟨fb.trans isBlack, fun anim => ap.trans (noIndex anim)⟩

/-- Settles O38: an opaque pixel's store in Normal mode (`pixelRule_normal`) is of its own colour and index. -/
theorem normalReproducesOpaqueSprite : Obligations.NormalReproducesOpaqueSprite := by
  intro s t w y x c m inv ready mode anim taken hy hx drawn full
  obtain ⟨-, -, wf⟩ := inv.of_walk ready.1
  obtain ⟨fb, ap⟩ := step_drawnCell inv ready taken hy hx drawn
  obtain ⟨ownColour, ownIndex⟩ := State.putPixel_cell wf (pixelRule_normal true (s.clipCell y x) c s m)
  rw [if_pos full] at ownColour ownIndex
  rw [mode, anim] at fb ap
  exact ⟨fb.trans ownColour, ap.trans (ownIndex rfl)⟩

/-- Settles O39: a cell that changed would be one that a drawn pixel's rule changes (`drawWritesOnlyDrawnClipCells`), and
with the identity table the rule stores the index that the cell already holds. -/
theorem identityRemapKeepsAnimatedCells : Obligations.IdentityRemapKeepsAnimatedCells := by
  intro s t w p inv ready mode anim identity taken index
  obtain ⟨-, -, wf⟩ := inv.of_walk ready.1
  by_contra changed
  obtain ⟨y, x, c, m, -, -, -, -, -, ruleChanges⟩ :=
    drawWritesOnlyDrawnClipCells.2 s t w p inv ready.1 taken (not_and_or.1 changed)
  rw [mode, anim, pixelRule_transparentRemap_of_index p c s m index, State.remap, identity,
    State.setAp_apAt_same wf, State.setAp_fbAt] at ruleChanges
  exact ruleChanges.elim (absurd rfl) (absurd rfl)

end Sys2Proof.Machine
end

section
/-! The command words (44_control_commands.md, R201 to R205): which command a CMD write runs, what a DRAW, CLEAR or NOP
does to the state, and the statements of that file about them. -/

namespace Sys2Proof.Machine

/-! ## The commands -/

/-- A DRAW of any mode is the one shared operation of an accepted or dropped START. -/
theorem exec_drawInstr (mode : Mode) (zoom : BitVec 3) (remapEn : Bool) (s : State) :
    exec (drawInstr mode zoom remapEn) s = .next (s.startOrDrop mode zoom remapEn) := by
  cases mode <;> rfl

theorem exec_clear (mode zoom : BitVec 3) (remapEn : Bool) (s : State) :
    exec (.clear mode zoom remapEn) s = .next s.clearStatus := rfl

theorem exec_nop (mode zoom : BitVec 3) (remapEn : Bool) (s : State) : exec (.nop mode zoom remapEn) s = .next s := rfl

theorem exec_illegalCmd_of_busy {s : State} (h : s.busy = true) (w : Word) :
    exec (.illegalCmd w) s = .next s.markDropped := by
  change Host.Outcome.next (if s.busy then s.markDropped else s.raiseImmediate) = _
  rw [if_pos h]

theorem State.startOrDrop_of_busy {s : State} (h : s.busy = true) (mode : Mode) (zoom : BitVec 3) (remapEn : Bool) :
    s.startOrDrop mode zoom remapEn = s.markDropped := if_pos h

theorem State.startOrDrop_of_idle {s : State} (h : s.eng = .idle) (mode : Mode) (zoom : BitVec 3) (remapEn : Bool) :
    s.startOrDrop mode zoom remapEn = s.startDraw mode zoom remapEn := by
  rw [State.startOrDrop, (State.not_busy_iff s).2 h]
  rfl

/-! ## A CMD write -/

/-- Between commit steps, a 32-bit write at offset 0 runs the command of its word. -/
theorem step_cmdWrite {s : State} (h : s.walk = none) (w : Word) :
    step (s.facing (.regWrite 0x00#8 .word w)) = exec (decodeCmd w) s :=
  step_facing h _

theorem decodeCmd_of_illegal {w : Word} (h : illegalWord w = true) : decodeCmd w = .illegalCmd w := if_pos h

/-- The MODE values below 6 are the six modes (R81). -/
theorem decodeDraw_eq_drawInstr {w : Word} (h : (cmdMode w).toNat < 6) :
    ∃ mode, decodeDraw w = drawInstr mode (cmdZoom w) (cmdRemapEn w) := by
  unfold decodeDraw
  split
  · exact ⟨.normal, rfl⟩
  · exact ⟨.colourRemap, rfl⟩
  · exact ⟨.crashRemap, rfl⟩
  · exact ⟨.transparent, rfl⟩
  · exact ⟨.transparentRemap, rfl⟩
  · exact ⟨.blackRemap, rfl⟩
  · simp only [imp_false] at *
    omega

/-- A legal word with START = 1 has CLEAR = 0 and a MODE below 6 (R84), so it is a DRAW. -/
theorem decodeCmd_of_start {w : Word} (legal : illegalWord w = false) (start : w.getLsbD 0 = true) :
    ∃ mode, decodeCmd w = drawInstr mode (cmdZoom w) (cmdRemapEn w) := by
  have started : cmdStart w = true := start
  have fields := legal
  simp only [illegalWord, started, Bool.true_and, Bool.or_eq_false_iff, decide_eq_false_iff_not, Nat.not_le] at fields
  obtain ⟨⟨-, mode⟩, noClear⟩ := fields
  simpa [decodeCmd, legal, noClear, started] using decodeDraw_eq_drawInstr mode

/-! ## STATUS while BUSY -/

theorem Status.eq_of_cleared {t : Status} (noDone : t.done = false) (noErr : t.err = false)
    (noCode : t.errCode = 0#4) : t = { done := false, err := false, dropped := t.dropped, errCode := 0#4 } := by
  cases t
  cases noDone
  cases noErr
  cases noCode
  rfl

/-- While BUSY the invariant leaves only DROPPED free (R27). -/
theorem State.Inv.status_of_busy {s : State} (inv : s.Inv) (busy : s.busy = true) :
    s.status = { done := false, err := false, dropped := s.status.dropped, errCode := 0#4 } := by
  obtain ⟨status, -, -, -⟩ := inv
  simp only [State.statusWf, busy, Bool.and_eq_true, Bool.true_and, Bool.not_eq_true'] at status
  obtain ⟨⟨⟨⟨noDone, noErr⟩, -⟩, code⟩, -⟩ := status
  exact Status.eq_of_cleared noDone noErr (by simpa [noErr] using code)

/-! ## The statements -/

/-- Settles O12: the six forms are `drawInstr` of the six modes, and while IDLE each START is accepted. -/
theorem drawIsAccepted : Obligations.DrawIsAccepted := by
  intro s z r idle accepted
  have accepts (mode : Mode) : exec (drawInstr mode z r) s = .next (accepted mode) := by
    rw [exec_drawInstr, State.startOrDrop_of_idle idle]
    rfl
  exact ⟨accepts .normal, accepts .colourRemap, accepts .crashRemap, accepts .transparent, accepts .transparentRemap,
    accepts .blackRemap⟩

/-- Settles O13: an illegal word is dropped as ILLEGAL_CMD, and a legal START as a DRAW. -/
theorem cmdWriteWhileBusyIsDropped : Obligations.CmdWriteWhileBusyIsDropped := by
  intro s w hw busy startOrIllegal
  change _ = Host.Outcome.next s.markDropped
  rw [step_cmdWrite hw]
  cases illegal : illegalWord w with
  | true => rw [decodeCmd_of_illegal illegal, exec_illegalCmd_of_busy busy]
  | false =>
    have start : w.getLsbD 0 = true := startOrIllegal.resolve_right (by simp [illegal])
    obtain ⟨mode, draw⟩ := decodeCmd_of_start illegal start
    rw [draw, exec_drawInstr, State.startOrDrop_of_busy busy]

/-- Settles O14: the first clause is `clearStatus`; in the second the cleared fields but DROPPED were 0 already. -/
theorem clearClearsStatus : Obligations.ClearClearsStatus := by
  intro s m z r
  refine ⟨exec_clear m z r s, fun inv busy => ?_⟩
  rw [exec_clear, State.clearStatus, inv.status_of_busy busy]

/-- Settles O15: a NOP answers the state it was given. -/
theorem nopChangesNothing : Obligations.NopChangesNothing :=
  fun s m z r => exec_nop m z r s

end Sys2Proof.Machine
end

section
/-! The errors and the interrupt (60_exceptions.md, R221 to R235): which error each check raises, what any part of the commit
step can lead to, and the statements of that file. -/

namespace Sys2Proof.Machine

/-! ## The error codes (section 1 of 60_exceptions.md) -/

/-- ILLEGAL_CMD alone is no error of the commit step; the others have the codes 2 to 10. -/
theorem ErrorCode.code_of_ne_illegalCmd {e : ErrorCode} (h : e ≠ .illegalCmd) : 2 ≤ e.code.toNat ∧ e.code.toNat ≤ 10 := by
  cases e with
  | illegalCmd => exact absurd rfl h
  | _ => decide

theorem State.raiseError_eq_endedWith (s : State) (e : ErrorCode) : s.raiseError e = s.endedWith e.code := rfl

/-! ## A record of an open row as an instruction -/

section
variable {s : State} {w : Walk} (hw : s.walk = some w) (hp : w.phase = .records) (m : Byte) (n : Half)
include hw hp

theorem exec_skipRec_of_row : exec (.skipRec m n) s = .next
    (if n = 0#16 then s.raiseError .streamZeroRun
     else s.setWalk (w.cover n (List.replicate (s.visibleCount w n) .skip))) :=
  State.onOpenRow_of_row hw hp _

theorem exec_drawRec_zero : exec (.drawRec m 0#16) s = .next (s.raiseError .streamZeroRun) :=
  State.onOpenRow_of_row hw hp _

theorem exec_drawRec_of_error (hn : n ≠ 0#16) {e : ErrorCode}
    (h : s.drawnPixels w m (s.visibleCount w n) (s.visibleFrom w) = .error e) :
    exec (.drawRec m n) s = .next (s.raiseError e) := by
  simp only [exec, execDrawRec, State.onOpenRow_of_row hw hp, if_neg hn, h]

theorem exec_drawRec_of_ok (hn : n ≠ 0#16) {ps : List Pix}
    (h : s.drawnPixels w m (s.visibleCount w n) (s.visibleFrom w) = .ok ps) :
    exec (.drawRec m n) s = .next (s.setWalk (Walk.cover { w with pc := w.pc + 4 * n.toNat } n ps)) := by
  simp only [exec, execDrawRec, State.onOpenRow_of_row hw hp, if_neg hn, h]

theorem exec_reservedRec_of_row (cls : Byte) : exec (.reservedRec cls m n) s = .next (s.raiseError .streamClass) :=
  State.onOpenRow_of_row hw hp _

end

/-! ## The checks of a colour record (R148, R231) -/

theorem State.inSrc_eq_false_iff {s : State} {addr n : Nat} : s.inSrc addr n = false ↔ s.params.srcSize < addr + n := by
  simp [State.inSrc]

section
variable {s : State} {w : Walk} {k : Nat} (m : Byte)

theorem State.drawnPixel_of_goodColumn (h : s.goodColumn w k) :
    s.drawnPixel w m k = .ok (.draw (s.srcColour (w.pc + 4 * k)) m) := by
  obtain ⟨inScanline, inside, drawable⟩ := h
  exact State.drawnPixel_eq_ok.2 ⟨inScanline, State.inSrc_iff.2 inside, drawable, rfl⟩

theorem State.drawnPixel_of_overrun (h : w.endc < w.pc + 4 * k + 4) :
    s.drawnPixel w m k = .error .streamColourOverrun := if_pos h

theorem State.drawnPixel_of_outside (inScanline : w.pc + 4 * k + 4 ≤ w.endc)
    (outside : s.params.srcSize < w.pc + 4 * k + 4) : s.drawnPixel w m k = .error .srcRange := by
  simp [State.drawnPixel, Nat.not_lt.2 inScanline, State.inSrc_eq_false_iff.2 outside]

theorem State.drawnPixel_of_alpha0 (inScanline : w.pc + 4 * k + 4 ≤ w.endc)
    (inside : w.pc + 4 * k + 4 ≤ s.params.srcSize) (alpha : (s.srcColour (w.pc + 4 * k)).a = 0#8) :
    s.drawnPixel w m k = .error .streamAlpha0 := by
  simp [State.drawnPixel, Nat.not_lt.2 inScanline, State.inSrc_iff.2 inside, alpha]

theorem State.drawnPixel_error {e : ErrorCode} (h : s.drawnPixel w m k = .error e) : e ≠ .illegalCmd := by
  unfold State.drawnPixel at h
  split_ifs at h <;> cases h <;> nofun

end

theorem State.drawnPixels_succ_of_error {s : State} {w : Walk} {m : Byte} {k : Nat} {e : ErrorCode}
    (h : s.drawnPixel w m k = .error e) (count : Nat) : s.drawnPixels w m (count + 1) k = .error e := by
  simp only [State.drawnPixels, h]

/-- A run whose first pixel passes its checks reports what its other pixels do. -/
theorem State.drawnPixels_succ_of_ok {s : State} {w : Walk} {m : Byte} {k : Nat} {p : Pix} {count : Nat} {e : ErrorCode}
    (h : s.drawnPixel w m k = .ok p) :
    s.drawnPixels w m (count + 1) k = .error e ↔ s.drawnPixels w m count (k + 1) = .error e := by
  simp only [State.drawnPixels, h]
  cases s.drawnPixels w m count (k + 1) <;> simp

/-- The error of a run is an error of one of its pixels. -/
theorem State.drawnPixels_error {s : State} {w : Walk} {m : Byte} {count k : Nat} {e : ErrorCode}
    (h : s.drawnPixels w m count k = .error e) : ∃ j, s.drawnPixel w m j = .error e := by
  induction count generalizing k with
  | zero => cases h
  | succ count ih =>
    cases first : s.drawnPixel w m k with
    | error e' =>
      cases h.symm.trans (State.drawnPixels_succ_of_error first count)
      exact ⟨k, first⟩
    | ok p => exact ih ((State.drawnPixels_succ_of_ok first).1 h)

/-- A run reports the error of its first pixel that fails a check (R231). -/
theorem State.drawnPixels_of_first_error {s : State} {w : Walk} {m : Byte} {count start k : Nat} {e : ErrorCode}
    (lower : start ≤ k) (upper : k < start + count) (before : ∀ j, start ≤ j → j < k → s.goodColumn w j)
    (fails : s.drawnPixel w m k = .error e) : s.drawnPixels w m count start = .error e := by
  induction count generalizing start with
  | zero => omega
  | succ count ih =>
    rcases Nat.eq_or_lt_of_le lower with rfl | later
    · exact State.drawnPixels_succ_of_error fails count
    · refine (State.drawnPixels_succ_of_ok (State.drawnPixel_of_goodColumn m (before start le_rfl later))).2 ?_
      exact ih later (by omega) fun j hj => before j (by omega)

/-- The run of `visibleCount` pixels from `visibleFrom` on is the visible columns (R150, R151). -/
theorem State.mem_visibleColumns_iff {s : State} {w : Walk} {n : Half} {k : Nat} :
    k ∈ s.visibleColumns w.col n.toNat ↔ s.visibleFrom w ≤ k ∧ k < s.visibleFrom w + s.visibleCount w n := by
  simp only [State.visibleColumns, List.mem_filter, List.mem_range, Bool.and_eq_true, decide_eq_true_eq,
    State.visibleFrom, State.visibleCount]
  omega

/-- A drawable record ends the command with the error of its first visible column that fails a check. -/
theorem exec_drawRec_of_first_error {s : State} {w : Walk} (hw : s.walk = some w) (hp : w.phase = .records) {m : Byte}
    {n : Half} (hn : n ≠ 0#16) {k : Nat} (visible : k ∈ s.visibleColumns w.col n.toNat)
    (before : ∀ j ∈ s.visibleColumns w.col n.toNat, j < k → s.goodColumn w j) {e : ErrorCode}
    (fails : s.drawnPixel w m k = .error e) : exec (.drawRec m n) s = .next (s.raiseError e) := by
  obtain ⟨lower, upper⟩ := State.mem_visibleColumns_iff.1 visible
  refine exec_drawRec_of_error hw hp m n hn (State.drawnPixels_of_first_error lower upper (fun j hj hjk => ?_) fails)
  exact before j (State.mem_visibleColumns_iff.2 ⟨hj, by omega⟩) hjk

/-! ## The parameter checks (R143) -/

theorem Mode.usesRemap_iff {mode : Mode} :
    mode.usesRemap = true ↔ mode = .colourRemap ∨ mode = .crashRemap ∨ mode = .transparentRemap := by
  cases mode <;> simp [Mode.usesRemap]

theorem State.emptyClip_iff {s : State} :
    s.emptyClip = true ↔ s.regs.width.toNat = 0 ∨ s.regs.height.toNat = 0 := by
  simp [State.emptyClip, BitVec.toNat_eq]

/-- The two ways of R224 for a destination to be illegal: rows that overlap, or a last cell outside FB. -/
theorem State.dstLegal_eq_false_iff {s : State} : s.dstLegal = false ↔
    (1 < s.regs.height.toNat ∧ s.regs.dstPitch.toNat < s.regs.width.toNat) ∨
    s.params.fbPixels < s.regs.dstOff.toNat + (s.regs.height.toNat - 1) * s.regs.dstPitch.toNat + s.regs.width.toNat := by
  simp only [State.dstLegal, Bool.and_eq_false_iff, Bool.or_eq_false_iff, decide_eq_false_iff_not, Nat.not_le]

section
variable {s : State}

theorem State.beginCommit_of_zoom (zoom : s.params.nzoom ≤ s.latch.zoom.toNat) :
    s.beginCommit = s.raiseError .zoomRange := if_pos zoom

section
variable (zoom : s.latch.zoom.toNat < s.params.nzoom)
include zoom

theorem State.beginCommit_of_no_table (uses : s.latch.mode.usesRemap = true) (missing : s.latch.remapEn = false) :
    s.beginCommit = s.raiseError .remapMissing := by
  simp [State.beginCommit, Nat.not_le.2 zoom, uses, missing]

variable (table : s.latch.mode.usesRemap = true → s.latch.remapEn = true)
include table

/-- Past the checks of the command word, the clip and the destination decide. -/
theorem State.beginCommit_of_word : s.beginCommit =
    if s.emptyClip then s.complete
    else if !s.dstLegal then s.raiseError .dstBounds
    else if s.latch.mode.usesRemap && !s.inSrc s.regs.remapBase.toNat 256 then s.raiseError .srcRange
    else if !s.inSrc s.tableEntry 8 then s.raiseError .srcRange
    else s.setWalk s.startWalk := by
  have noMiss : ¬ (s.latch.mode.usesRemap && !s.latch.remapEn) = true := by simpa using table
  rw [State.beginCommit, if_neg (Nat.not_le.2 zoom), if_neg noMiss]

theorem State.beginCommit_of_emptyClip (empty : s.emptyClip = true) : s.beginCommit = s.complete := by
  rw [State.beginCommit_of_word zoom table, if_pos empty]

theorem State.beginCommit_of_illegal_dst (clip : s.emptyClip = false) (illegal : s.dstLegal = false) :
    s.beginCommit = s.raiseError .dstBounds := by
  simp [State.beginCommit_of_word zoom table, clip, illegal]

theorem State.beginCommit_of_table_outside (clip : s.emptyClip = false) (legal : s.dstLegal = true)
    (uses : s.latch.mode.usesRemap = true) (outside : s.inSrc s.regs.remapBase.toNat 256 = false) :
    s.beginCommit = s.raiseError .srcRange := by
  simp [State.beginCommit_of_word zoom table, clip, legal, uses, outside]

end

/-- With no walk to end, `complete` sets DONE and the engine IDLE only. -/
theorem State.complete_of_no_walk (hw : s.walk = none) :
    s.complete = { s with eng := .idle, status := { s.status with done := true } } := by
  rw [State.complete, ← hw]

end

/-! ## The fetch of a record as a step -/

theorem step_fetchRecord {s : State} {w : Walk} (hw : s.walk = some w) (hp : w.phase = .records) (hc : w.col < s.lim) :
    step s = (s.fetchRecord w).outcome := by
  rw [step_of_walk hw, State.continueWalk, hp]
  simp only [if_pos hc]

/-! ## What a part of the commit step leads to -/

/-- Where one part of the commit step of `s` leads: to an error of the commit step, to a walk that goes on, or to the end of
the DRAW with nothing but the planes changed. -/
inductive State.CommitPart (s : State) : State → Prop
  | fails (e : ErrorCode) : e ≠ .illegalCmd → s.CommitPart (s.raiseError e)
  | goesOn (w : Walk) : s.CommitPart (s.setWalk w)
  | ends (fb : List (Nat × Colour)) (ap : List Host.Cell) : s.CommitPart (State.complete { s with fb := fb, ap := ap })

theorem State.CommitPart.of_setWalk {s t : State} {w : Walk} (part : (s.setWalk w).CommitPart t) : s.CommitPart t := by
  cases part with
  | fails e he => exact .fails e he
  | goesOn w' => exact .goesOn w'
  | ends fb ap => exact .ends fb ap

theorem State.beginCommit_part (s : State) : s.CommitPart s.beginCommit := by
  unfold State.beginCommit
  split_ifs
  any_goals exact .fails _ nofun
  · exact .ends s.fb s.ap
  · exact .goesOn _

theorem State.skipRow_part (s : State) (w : Walk) (left : Nat) : s.CommitPart (s.skipRow w left) := by
  unfold State.skipRow
  split
  · exact .goesOn _
  · exact .fails _ nofun

theorem State.startRow_part (s : State) (w : Walk) : s.CommitPart (s.startRow w) := by
  unfold State.startRow
  split
  · exact .goesOn _
  · exact .fails _ nofun

theorem State.writePhase_part (s : State) (rows : List (List Pix)) : s.CommitPart (s.writePhase rows).complete := by
  rw [writePhase_frame]
  exact .ends _ _

section
variable {s : State} {w : Walk} (hw : s.walk = some w) (hp : w.phase = .records) (m : Byte) (n : Half)
include hw hp

theorem exec_skipRec_part : ∃ t, exec (.skipRec m n) s = .next t ∧ s.CommitPart t := by
  refine ⟨_, exec_skipRec_of_row hw hp m n, ?_⟩
  split
  · exact .fails _ nofun
  · exact .goesOn _

theorem exec_drawRec_part : ∃ t, exec (.drawRec m n) s = .next t ∧ s.CommitPart t := by
  by_cases hn : n = 0#16
  · subst hn
    exact ⟨_, exec_drawRec_zero hw hp m, .fails _ nofun⟩
  · cases pixels : s.drawnPixels w m (s.visibleCount w n) (s.visibleFrom w) with
    | error e =>
      obtain ⟨_, pixel⟩ := State.drawnPixels_error pixels
      exact ⟨_, exec_drawRec_of_error hw hp m n hn pixels, .fails e (State.drawnPixel_error m pixel)⟩
    | ok ps => exact ⟨_, exec_drawRec_of_ok hw hp m n hn pixels, .goesOn _⟩

theorem exec_record_part (x : Word) : ∃ t, exec (decodeRec x) s = .next t ∧ s.CommitPart t := by
  unfold decodeRec
  dsimp only
  split
  · exact exec_skipRec_part hw hp _ _
  · split
    · exact exec_drawRec_part hw hp _ _
    · exact ⟨_, exec_reservedRec_of_row hw hp _ _ _, .fails _ nofun⟩

end

theorem State.fetchRecord_part (s : State) {w : Walk} (hp : w.phase = .records) :
    ∃ t, (s.fetchRecord w).outcome = .next t ∧ s.CommitPart t := by
  rw [State.fetchRecord_eq]
  split
  · exact ⟨_, rfl, .fails _ nofun⟩
  · split
    · exact ⟨_, rfl, .fails _ nofun⟩
    · obtain ⟨t, runs, part⟩ :=
        exec_record_part (s := s.setWalk { w with pi := w.pi + 4 }) rfl hp (s.recordWord w.pi)
      exact ⟨t, runs, part.of_setWalk⟩

/-- A step of a walk is one part of the commit step. -/
theorem step_walk_part {s t : State} {w : Walk} (hw : s.walk = some w) (taken : step s = .next t) : s.CommitPart t := by
  suffices part : ∃ u, step s = .next u ∧ s.CommitPart u by
    obtain ⟨u, reached, part⟩ := part
    cases reached.symm.trans taken
    exact part
  cases hp : w.phase with
  | skipRows left =>
    cases left with
    | zero => exact ⟨_, by rw [step_of_walk hw, State.continueWalk, hp]; rfl, .goesOn _⟩
    | succ left => exact ⟨_, step_skipRow hw hp, s.skipRow_part w left⟩
  | rowStart =>
    rcases Nat.lt_or_ge w.y s.regs.height.toNat with hy | hy
    · exact ⟨_, step_startRow hw hp hy, s.startRow_part w⟩
    · exact ⟨_, step_writePhase hw hp hy, s.writePhase_part w.rows⟩
  | records =>
    rcases Nat.lt_or_ge w.col s.lim with hc | hc
    · rw [step_fetchRecord hw hp hc]
      exact s.fetchRecord_part hp
    · exact ⟨_, step_finishRow hw hp hc, .goesOn _⟩

/-- Only an error sets ERR. -/
theorem State.CommitPart.error_of_err {s t : State} (part : s.CommitPart t) (noErr : s.status.err = false)
    (err : t.status.err = true) : ∃ e, e ≠ .illegalCmd ∧ t = s.raiseError e := by
  cases part with
  | fails e he => exact ⟨e, he, rfl⟩
  | goesOn w => exact absurd (noErr.symm.trans err) Bool.false_ne_true
  | ends fb ap => exact absurd (noErr.symm.trans err) Bool.false_ne_true

/-! ## An action while BUSY -/

theorem State.engineTurn_of_busy {s : State} (busy : s.busy = true) : s.engineTurn = s.beginCommit := if_pos busy

/-- While BUSY a CMD write sets DROPPED, clears STATUS or does nothing (R203, R204, R205). -/
theorem exec_decodeCmd_of_busy {s : State} (busy : s.busy = true) (word : Word) :
    exec (decodeCmd word) s = .next s.markDropped ∨ exec (decodeCmd word) s = .next s.clearStatus ∨
      exec (decodeCmd word) s = .next s := by
  cases illegal : illegalWord word with
  | true => exact .inl (by rw [decodeCmd_of_illegal illegal, exec_illegalCmd_of_busy busy])
  | false =>
    cases start : cmdStart word with
    | true =>
      obtain ⟨mode, draw⟩ := decodeCmd_of_start illegal start
      exact .inl (by rw [draw, exec_drawInstr, State.startOrDrop_of_busy busy])
    | false =>
      cases clr : cmdClear word with
      | true => exact .inr (.inl (by simp [decodeCmd, illegal, clr, exec_clear]))
      | false => exact .inr (.inr (by simp [decodeCmd, illegal, clr, start, exec_nop]))

section
variable {s t : State} (busy : s.busy = true) (noErr : s.status.err = false)
include busy noErr

theorem exec_decodeCmd_err_of_busy {word : Word} (taken : exec (decodeCmd word) s = .next t) : t.status.err = false := by
  rcases exec_decodeCmd_of_busy busy word with h | h | h <;> cases h.symm.trans taken
  · exact noErr
  · rfl
  · exact noErr

/-- Of the actions that a BUSY machine can take, only the engine's turn can lead to an error. -/
theorem State.act_of_busy {a : Action} (taken : (s.act a).outcome = .next t) :
    t.status.err = false ∨ t = s.beginCommit := by
  have noAccess {missing : Option Fault} {u : State} : s.hostAccess missing u ≠ .next t := fun h => by
    obtain ⟨idle, -⟩ := State.hostAccess_next.1 h
    simp [busy] at idle
  have noChange {o : Outcome} : s.environmentChange o ≠ .next t := fun h => by
    obtain ⟨idle, -⟩ := State.environmentChange_next.1 h
    simp [busy] at idle
  cases a with
  | regWrite off size v =>
    left
    by_cases hc : regOfAccess off size = some .cmd
    · rw [State.act, if_pos hc] at taken
      exact exec_decodeCmd_err_of_busy busy noErr taken
    · rw [State.act, if_neg hc, State.regWrite_of_busy busy] at taken
      cases taken
      exact noErr
  | engine =>
    right
    rw [State.act, State.engineTurn_of_busy busy] at taken
    exact (Host.Outcome.next.inj taken).symm
  | reset => cases taken; exact .inl rfl
  | regRead | setApPresent | setAnimDisable => cases taken; exact .inl noErr
  | srcRead | srcWrite | fbRead | fbWrite | apRead | apWrite => exact absurd taken noAccess
  | envApWrite | setPalette | resize => exact absurd taken noChange

/-- A step of a BUSY machine that sets ERR raised an error of the commit step, in the state without the entry that the step
took off the agenda. -/
theorem step_error_of_busy (taken : step s = .next t) (err : t.status.err = true) :
    ∃ e agenda, e ≠ .illegalCmd ∧ t = State.raiseError { s with agenda := agenda } e := by
  suffices part : ∃ agenda, State.CommitPart { s with agenda := agenda } t by
    obtain ⟨agenda, part⟩ := part
    obtain ⟨e, he, rfl⟩ := part.error_of_err noErr err
    exact ⟨e, agenda, he, rfl⟩
  rcases Option.eq_none_or_eq_some s.walk with hw | ⟨w, hw⟩
  · cases ha : s.agenda with
    | nil =>
      rw [step_of_empty_agenda hw ha, State.engineTurn_of_busy busy] at taken
      cases taken
      exact ⟨s.agenda, s.beginCommit_part⟩
    | cons a rest =>
      rw [step_of_action hw ha] at taken
      rcases State.act_of_busy (s := { s with agenda := rest }) busy noErr taken with kept | rfl
      · exact absurd (kept.symm.trans err) Bool.false_ne_true
      · exact ⟨rest, State.beginCommit_part _⟩
  · exact ⟨s.agenda, step_walk_part hw taken⟩

end

/-! ## The run of a commit step (R233) -/

theorem run_succ_eq_next {M : Host.Core} {n : Nat} {s t : M.State} (ran : M.run (n + 1) s = .next t) :
    ∃ u, M.step s = .next u ∧ M.run n u = .next t := by
  rw [Host.Core.run] at ran
  split at ran
  · exact ⟨_, ‹_›, ran⟩
  · cases ran
  · cases ran

/-- What a step keeps, a run of the machine keeps. -/
theorem run_induction {P : State → Prop} (keeps : ∀ t u, P t → step t = .next u → P u) {n : Nat} {s t : State}
    (start : P s) (ran : Host.Core.run Sys2Proof.core n s = .next t) : P t := by
  induction n generalizing s with
  | zero => cases ran; exact start
  | succ n ih =>
    obtain ⟨u, taken, ran⟩ := run_succ_eq_next ran
    exact ih (keeps s u start taken) ran

/-- The engine is at rest: a step finds nothing to do. -/
structure State.AtRest (s : State) : Prop where
  idle : s.eng = .idle
  no_walk : s.walk = none
  no_action : s.agenda = []

theorem State.AtRest.step {s : State} (rest : s.AtRest) : step s = .next s := by
  rw [step_of_empty_agenda rest.no_walk rest.no_action, State.engineTurn, (State.not_busy_iff s).2 rest.idle]
  rfl

/-- Where the commit step that `s` begins has come to: it is under way with nothing but its walk changed, or it has raised
an error there, or the DRAW has ended without one. -/
inductive State.CommitStage (s : State) : State → Prop
  | underWay (walk : Option Walk) : s.CommitStage { s with walk := walk }
  | failed (e : ErrorCode) : s.CommitStage (s.raiseError e)
  | completed (t : State) : t.AtRest → t.status.err = false → s.CommitStage t

section
variable {s t u : State} (busy : s.busy = true) (noErr : s.status.err = false) (alone : s.agenda = [])
include noErr alone

/-- The next part of a commit step that is under way. -/
theorem State.CommitPart.stage {walk : Option Walk} (part : State.CommitPart { s with walk := walk } u) :
    s.CommitStage u := by
  cases part with
  | fails e _ => exact .failed e
  | goesOn w => exact .underWay (some w)
  | ends fb ap => exact .completed _ ⟨rfl, rfl, alone⟩ noErr

include busy

theorem State.CommitStage.step (stage : s.CommitStage t) (taken : step t = .next u) : s.CommitStage u := by
  cases stage with
  | underWay walk =>
    cases walk with
    | some w => exact (step_walk_part rfl taken).stage noErr alone
    | none =>
      have begins := step_of_empty_agenda (s := { s with walk := none }) rfl alone
      rw [State.engineTurn_of_busy (s := { s with walk := none }) busy] at begins
      cases begins.symm.trans taken
      exact (State.beginCommit_part _).stage noErr alone
  | failed e =>
    have rest : (s.raiseError e).AtRest := ⟨rfl, rfl, alone⟩
    cases rest.step.symm.trans taken
    exact .failed e
  | completed t rest noErr =>
    cases rest.step.symm.trans taken
    exact .completed t rest noErr

end

/-! ## The commands and the interrupt (R234, R235) -/

theorem exec_illegalCmd_of_idle {s : State} (h : s.eng = .idle) (w : Word) :
    exec (.illegalCmd w) s = .next s.raiseImmediate := by
  change Host.Outcome.next (if s.busy then s.markDropped else s.raiseImmediate) = _
  rw [(State.not_busy_iff s).2 h]
  rfl

/-- A legal word with CLEAR = 1 is CLEAR, whatever its other fields are (R84, R204). -/
theorem decodeCmd_of_clear {w : Word} (legal : illegalWord w = false) (clr : w.getLsbD 1 = true) :
    decodeCmd w = .clear (cmdMode w) (cmdZoom w) (cmdRemapEn w) := by
  have cleared : cmdClear w = true := clr
  simp [decodeCmd, legal, cleared]

theorem State.irq_iff (s : State) :
    s.irq = true ↔ s.regs.irqEn = true ∧ (s.status.done = true ∨ s.status.err = true) := by
  simp [State.irq]

theorem State.irq_of_quiet {s : State} (noDone : s.status.done = false) (noErr : s.status.err = false) :
    s.irq = false := by
  simp [State.irq, noDone, noErr]

/-! ## The statements -/

/-- Settles O19: the three checks of the column in R231's order, each with its error. -/
theorem drawRecordReportsFirstError : Obligations.DrawRecordReportsFirstError := by
  intro s w m n k hw hp hn visible before
  have reports {e : ErrorCode} (fails : s.drawnPixel w m k = .error e) :
      exec (.drawRec m n) s = .next (s.raiseError e) :=
    exec_drawRec_of_first_error hw hp hn visible before fails
  exact ⟨fun overrun => reports (State.drawnPixel_of_overrun m overrun),
    fun inScanline outside => reports (State.drawnPixel_of_outside m inScanline outside),
    fun inScanline inside alpha => reports (State.drawnPixel_of_alpha0 m inScanline inside alpha)⟩

/-- Settles O23: one case of `State.beginCommit` for each clause. -/
theorem parameterChecksInOrder : Obligations.ParameterChecksInOrder := by
  intro s hw busy remapMode w h p overlap outside tableOutside
  rw [step_facing_engine hw busy]
  have uses : s.latch.mode.usesRemap = true ↔ remapMode := Mode.usesRemap_iff
  refine ⟨fun zoom => ?zoomRange, fun zoom => ⟨fun ⟨remap, missing⟩ => ?remapMissing, fun table => ⟨fun empty => ?done,
    fun width height => ?nonempty⟩⟩⟩
  case zoomRange => rw [State.beginCommit_of_zoom zoom]; rfl
  case remapMissing => rw [State.beginCommit_of_no_table zoom (uses.2 remap) missing]; rfl
  case done =>
    rw [State.beginCommit_of_emptyClip zoom (table ∘ uses.1) (State.emptyClip_iff.2 empty),
      State.complete_of_no_walk hw]
  case nonempty =>
    have clip : s.emptyClip = false := by
      rw [← Bool.not_eq_true, State.emptyClip_iff, not_or]
      exact ⟨width.ne', height.ne'⟩
    have table : s.latch.mode.usesRemap = true → s.latch.remapEn = true := table ∘ uses.1
    constructor
    · intro illegal
      rw [State.beginCommit_of_illegal_dst zoom table clip (State.dstLegal_eq_false_iff.2 illegal)]
      rfl
    · rintro apart inside ⟨remap, tableOutside⟩
      have legal : s.dstLegal = true := by
        rw [← Bool.not_eq_false, State.dstLegal_eq_false_iff, not_or]
        exact ⟨apart, inside⟩
      rw [State.beginCommit_of_table_outside zoom table clip legal (uses.2 remap)
        (State.inSrc_eq_false_iff.2 tableOutside)]
      rfl

/-- Settles O31: a step of a BUSY machine sets ERR only by an error of the commit step (`step_error_of_busy`). -/
theorem errorEntryIsPrecise : Obligations.ErrorEntryIsPrecise := by
  refine ⟨by decide, State.raiseError_eq_endedWith, fun s t inv busy taken err => ?_⟩
  have noErr : s.status.err = false := by rw [inv.status_of_busy busy]
  obtain ⟨e, agenda, commitError, rfl⟩ := step_error_of_busy busy noErr taken err
  obtain ⟨least, greatest⟩ := ErrorCode.code_of_ne_illegalCmd commitError
  exact ⟨e.code, least, greatest, rfl⟩

/-- Settles O32: along the run the commit step is in one of its stages, and of those only the failed one has ERR. -/
theorem failedDrawLeavesPlanes : Obligations.FailedDrawLeavesPlanes := by
  intro s t inv busy hw alone ran err
  have noErr : s.status.err = false := by rw [inv.status_of_busy busy]
  have stage : s.CommitStage t :=
    run_induction (fun _ _ stage taken => stage.step busy noErr alone taken) (.underWay s.walk) ran
  cases stage with
  | underWay walk => exact absurd (noErr.symm.trans err) Bool.false_ne_true
  | failed e => exact ⟨rfl, rfl, rfl, rfl⟩
  | completed t rest noErr => exact absurd (noErr.symm.trans err) Bool.false_ne_true

/-- Settles O16: while IDLE the word is not dropped, and the error is raised at once. -/
theorem illegalWordRaisesIllegalCmd : Obligations.IllegalWordRaisesIllegalCmd :=
  fun _ w idle => exec_illegalCmd_of_idle idle w

/-- Settles O20: both kinds of record check their length before anything else. -/
theorem zeroRunIsAnError : Obligations.ZeroRunIsAnError :=
  fun _ _ m hw hp => ⟨exec_skipRec_of_row hw hp m 0#16, exec_drawRec_zero hw hp m⟩

/-- Settles O21: the record does not look at its length. -/
theorem reservedClassIsAnError : Obligations.ReservedClassIsAnError :=
  fun _ _ cls m n hw hp => exec_reservedRec_of_row hw hp m n cls

/-- Settles O28: the first two branches of the fetch. -/
theorem fetchPastScanlineIsAnError : Obligations.FetchPastScanlineIsAnError := by
  intro s w hw hp hc
  rw [step_fetchRecord hw hp hc, State.fetchRecord_eq]
  constructor
  · intro overrun
    rw [if_pos overrun]
    rfl
  · intro inScanline outside
    rw [if_neg (Nat.not_lt.2 inScanline), State.inSrc_eq_false_iff.2 outside]
    rfl

/-- Settles O55: a write to CFG stores IRQ_EN only, a legal CLEAR is `clearStatus`, and a legal START while IDLE is
`startDraw`. -/
theorem interruptFollowsDoneAndErr : Obligations.InterruptFollowsDoneAndErr := by
  refine ⟨State.irq_iff, fun s v hw idle => ?cfg, fun s w hw legal clr => ?clear, fun s w hw idle legal start => ?start⟩
  case cfg =>
    refine ⟨{ s with regs := s.regs.write v .cfg }, ?_, rfl, State.irq_iff _⟩
    rw [wrAction, step_regWrite_offset hw (by decide), State.regWrite_offset_of_idle ((State.not_busy_iff s).2 idle)]
  case clear =>
    have taken := step_cmdWrite hw w
    rw [decodeCmd_of_clear legal clr, exec_clear] at taken
    exact ⟨s.clearStatus, taken, rfl, rfl, State.irq_of_quiet rfl rfl⟩
  case start =>
    obtain ⟨mode, draw⟩ := decodeCmd_of_start legal start
    have taken := step_cmdWrite hw w
    rw [draw, exec_drawInstr, State.startOrDrop_of_idle idle] at taken
    exact ⟨s.startDraw mode (cmdZoom w) (cmdRemapEn w), taken, rfl, rfl, rfl, State.irq_of_quiet rfl rfl⟩

end Sys2Proof.Machine
end

section
/-! The reset event (70_reset_and_hazards.md, R250). -/

namespace Sys2Proof.Machine

/-- Between commit steps reset abandons no walk, so it touches only the block's own registers and engine state (R251,
R254). -/
theorem State.applyReset_of_no_walk {s : State} (h : s.walk = none) :
    s.applyReset = { s with regs := Regs.zero, status := Status.zero, eng := .idle, latch := Latch.zero } := by
  rw [State.applyReset, ← h]

@[simp] theorem State.applyReset_statusWord (s : State) : s.applyReset.statusWord = 0#32 :=
  State.statusWord_of_zero s.applyReset_status s.applyReset_eng s.applyReset_latch

@[simp] theorem State.applyReset_regValue (s : State) (name : RegName) : s.applyReset.regValue name = 0#32 :=
  State.regValue_of_zero s.applyReset_regs s.applyReset_statusWord name

/-- Neither DONE nor ERR is left to ask for an interrupt. -/
@[simp] theorem State.applyReset_irq (s : State) : s.applyReset.irq = false := State.irq_of_quiet rfl rfl

theorem step_reset {s : State} (h : s.walk = none) : step (s.facing .reset) = .next s.applyReset := step_facing h _

/-- Settles O1: the step is `State.applyReset`, whose fields are the reset values. -/
theorem resetEventZeroesBlock : Obligations.ResetEventZeroesBlock := by
  intro s hw
  exact ⟨s.applyReset, step_reset hw, rfl, rfl, rfl, rfl, rfl, s.applyReset_statusWord, s.applyReset_regValue,
    s.applyReset_irq, State.applyReset_of_no_walk hw⟩

end Sys2Proof.Machine
end

section
/-! The encodings (30_encoding.md; 44_control_commands.md section 6): what each field of an encoded word reads, that
the fields of a word give the word back, and the statements about the decoder, the encoder and the host assembly's
`draw`. -/

namespace Sys2Proof

/-! ## Bytes and words (R52) -/

theorem wordOfBytes_of_word (w : Word) :
    wordOfBytes (w.extractLsb' 0 8) (w.extractLsb' 8 8) (w.extractLsb' 16 8) (w.extractLsb' 24 8) = w := by
  unfold wordOfBytes
  rw [BitVec.extractLsb'_append_extractLsb'_eq_extractLsb' (by rfl),
    BitVec.extractLsb'_append_extractLsb'_eq_extractLsb' (by rfl),
    BitVec.extractLsb'_append_extractLsb'_eq_extractLsb' (by rfl)]
  exact BitVec.extractLsb'_eq_self

theorem decode_bytesOfWord (f : Format) (w : Word) (rest : List Byte) :
    decode f (bytesOfWord w ++ rest) = .ok (decodeWord f w, rest) :=
  congrArg (fun x => Except.ok (decodeWord f x, rest)) (wordOfBytes_of_word w)

/-! ## The fields of an encoded CMD word (R80) -/

section
variable (start clr : Bool) (mode zoom : BitVec 3) (remapEn : Bool)

@[simp] theorem cmdStart_encodeCmd : cmdStart (encodeCmd start clr mode zoom remapEn) = start := by
  unfold cmdStart encodeCmd
  rw [BitVec.getLsbD_append]
  simp [bit]

@[simp] theorem cmdClear_encodeCmd : cmdClear (encodeCmd start clr mode zoom remapEn) = clr := by
  unfold cmdClear encodeCmd
  rw [BitVec.getLsbD_append, BitVec.getLsbD_append]
  simp [bit]

@[simp] theorem cmdMode_encodeCmd : cmdMode (encodeCmd start clr mode zoom remapEn) = mode := by
  unfold cmdMode encodeCmd
  rw [BitVec.extractLsb'_append_eq_of_le (by decide), BitVec.extractLsb'_append_eq_of_le (by decide),
    BitVec.extractLsb'_append_eq_of_le (by decide)]
  exact BitVec.extractLsb'_append_eq_right

@[simp] theorem cmdZoom_encodeCmd : cmdZoom (encodeCmd start clr mode zoom remapEn) = zoom := by
  unfold cmdZoom encodeCmd
  rw [BitVec.extractLsb'_append_eq_of_le (by decide), BitVec.extractLsb'_append_eq_of_le (by decide),
    BitVec.extractLsb'_append_eq_of_le (by decide), BitVec.extractLsb'_append_eq_of_le (by decide),
    BitVec.extractLsb'_append_eq_of_le (by decide)]
  exact BitVec.extractLsb'_append_eq_right

@[simp] theorem cmdRemapEn_encodeCmd : cmdRemapEn (encodeCmd start clr mode zoom remapEn) = remapEn := by
  unfold cmdRemapEn encodeCmd
  rw [BitVec.getLsbD_append, BitVec.getLsbD_append, BitVec.getLsbD_append, BitVec.getLsbD_append, BitVec.getLsbD_append,
    BitVec.getLsbD_append, BitVec.getLsbD_append, BitVec.getLsbD_append]
  simp [bit]

/-- No encoding of a command sets a reserved bit (R80). -/
@[simp] theorem encodeCmd_and_reservedMask : encodeCmd start clr mode zoom remapEn &&& cmdReservedMask = 0#32 := by
  have mask : cmdReservedMask = BitVec.allOnes 19 ++ 0#1 ++ 1#1 ++ 0#3 ++ 1#1 ++ 0#3 ++ 3#2 ++ 0#1 ++ 0#1 := by decide
  rw [mask, encodeCmd]
  iterate 8 rw [BitVec.and_append]
  simp only [BitVec.zero_and, BitVec.and_zero]
  rfl

/-- An encoded CMD word is illegal only by its START, CLEAR and MODE (R84 b, c). -/
@[simp] theorem illegalWord_encodeCmd : illegalWord (encodeCmd start clr mode zoom remapEn) =
    (start && decide (6 ≤ mode.toNat) || start && clr) := by
  simp [illegalWord]

end

theorem bit_getLsbD (w : Word) (i : Nat) : bit (w.getLsbD i) = w.extractLsb' i 1 := by
  ext j hj
  obtain rfl : j = 0 := by omega
  simp [bit]

/-- The fields of any word, put together again, are the word without its reserved bits (R80). -/
theorem encodeCmd_fields (w : Word) :
    encodeCmd (cmdStart w) (cmdClear w) (cmdMode w) (cmdZoom w) (cmdRemapEn w) = w &&& ~~~cmdReservedMask := by
  have slices : w = w.extractLsb' 13 19 ++ w.extractLsb' 12 1 ++ w.extractLsb' 11 1 ++ w.extractLsb' 8 3 ++
      w.extractLsb' 7 1 ++ w.extractLsb' 4 3 ++ w.extractLsb' 2 2 ++ w.extractLsb' 1 1 ++ w.extractLsb' 0 1 := by
    iterate 8 rw [BitVec.extractLsb'_append_extractLsb'_eq_extractLsb' (by rfl)]
    exact BitVec.extractLsb'_eq_self.symm
  have kept : ~~~cmdReservedMask = 0#19 ++ BitVec.allOnes 1 ++ 0#1 ++ BitVec.allOnes 3 ++ 0#1 ++ BitVec.allOnes 3 ++
      0#2 ++ BitVec.allOnes 1 ++ BitVec.allOnes 1 := by decide
  conv_rhs => rw [slices, kept]
  iterate 8 rw [BitVec.and_append]
  simp only [BitVec.and_zero, BitVec.and_allOnes, encodeCmd, cmdStart, cmdClear, cmdRemapEn, bit_getLsbD]
  rfl

/-- A word with no reserved bit is the encoding of its fields. -/
theorem encodeCmd_fields_of_legal {w : Word} (legal : illegalWord w = false) :
    encodeCmd (cmdStart w) (cmdClear w) (cmdMode w) (cmdZoom w) (cmdRemapEn w) = w := by
  have noReserved : w &&& cmdReservedMask = 0#32 := by
    simp only [illegalWord, Bool.or_eq_false_iff, bne_eq_false_iff_eq] at legal
    exact legal.1.1
  have parts : w &&& cmdReservedMask ||| w &&& ~~~cmdReservedMask = w := by
    rw [← BitVec.and_or_distrib_left, BitVec.or_not_self, BitVec.and_allOnes]
  rw [encodeCmd_fields]
  simpa [noReserved] using parts

/-! ## Decoding (R84, R99) -/

/-- The six DRAW encodings differ in MODE only, which is the mode's number (R81). -/
theorem encode_drawInstr (mode : Machine.Mode) (zoom : BitVec 3) (remapEn : Bool) :
    encode (Machine.drawInstr mode zoom remapEn) = encodeCmd true false (BitVec.ofNat 3 mode.number) zoom remapEn := by
  cases mode <;> rfl

theorem decodeDraw_of_mode {w : Word} {mode : Machine.Mode} (h : (cmdMode w).toNat = mode.number) :
    decodeDraw w = Machine.drawInstr mode (cmdZoom w) (cmdRemapEn w) := by
  cases mode <;> simp only [decodeDraw, h, Machine.Mode.number, Machine.drawInstr]

/-- The MODE values below 6 are the numbers of the six modes (R81). -/
theorem exists_mode_number {k : Nat} (h : k < 6) : ∃ mode : Machine.Mode, mode.number = k := by
  interval_cases k
  exacts [⟨.normal, rfl⟩, ⟨.colourRemap, rfl⟩, ⟨.crashRemap, rfl⟩, ⟨.transparent, rfl⟩, ⟨.transparentRemap, rfl⟩,
    ⟨.blackRemap, rfl⟩]

theorem mode_number_lt (mode : Machine.Mode) : mode.number < 6 := by cases mode <;> decide

/-- A legal START has no CLEAR, and its MODE is the number of a mode (R84). -/
theorem fields_of_legal_start {w : Word} (legal : illegalWord w = false) (start : cmdStart w = true) :
    cmdClear w = false ∧ ∃ mode : Machine.Mode, (cmdMode w).toNat = mode.number := by
  simp only [illegalWord, start, Bool.true_and, Bool.or_eq_false_iff, decide_eq_false_iff_not, Nat.not_le] at legal
  obtain ⟨⟨-, below⟩, noClear⟩ := legal
  obtain ⟨mode, number⟩ := exists_mode_number below
  exact ⟨noClear, mode, number.symm⟩

/-- A legal START of a mode's MODE value is the DRAW of that mode. -/
theorem decodeCmd_of_mode {w : Word} (legal : illegalWord w = false) (start : cmdStart w = true)
    {mode : Machine.Mode} (h : (cmdMode w).toNat = mode.number) :
    decodeCmd w = Machine.drawInstr mode (cmdZoom w) (cmdRemapEn w) := by
  obtain ⟨noClear, -⟩ := fields_of_legal_start legal start
  simp [decodeCmd, legal, noClear, start, decodeDraw_of_mode h]

theorem decodeCmd_of_nop {w : Word} (legal : illegalWord w = false) (start : cmdStart w = false)
    (clr : cmdClear w = false) : decodeCmd w = .nop (cmdMode w) (cmdZoom w) (cmdRemapEn w) := by
  simp [decodeCmd, legal, start, clr]

theorem decodeCmd_encode_drawInstr (mode : Machine.Mode) (zoom : BitVec 3) (remapEn : Bool) :
    decodeCmd (encode (Machine.drawInstr mode zoom remapEn)) = Machine.drawInstr mode zoom remapEn := by
  have below := mode_number_lt mode
  have number : (BitVec.ofNat 3 mode.number).toNat = mode.number := Nat.mod_eq_of_lt (by omega)
  rw [encode_drawInstr, decodeCmd_of_mode (mode := mode) (by simp [number, below]) (by simp) (by simp [number])]
  simp

theorem decodeCmd_encode_clear (mode zoom : BitVec 3) (remapEn : Bool) :
    decodeCmd (encode (.clear mode zoom remapEn)) = .clear mode zoom remapEn := by
  simp [encode, decodeCmd]

theorem decodeCmd_encode_nop (mode zoom : BitVec 3) (remapEn : Bool) :
    decodeCmd (encode (.nop mode zoom remapEn)) = .nop mode zoom remapEn := by
  simp [encode, decodeCmd]

/-- The fields of an encoded index record (R91). -/
theorem decodeRec_encodeRec (cls m : Byte) (n : Half) : decodeRec (encodeRec cls m n) =
    if cls = 0xFF#8 then .skipRec m n else if cls = 0x00#8 then .drawRec m n else .reservedRec cls m n := by
  have clsField : (encodeRec cls m n).extractLsb' 8 8 = cls := by
    unfold encodeRec
    rw [BitVec.extractLsb'_append_eq_of_le (by decide)]
    exact BitVec.extractLsb'_append_eq_right
  have mField : (encodeRec cls m n).extractLsb' 0 8 = m := BitVec.extractLsb'_append_eq_right
  have nField : (encodeRec cls m n).extractLsb' 16 16 = n := by
    unfold encodeRec
    rw [BitVec.extractLsb'_append_eq_of_le (by decide)]
    exact BitVec.extractLsb'_append_eq_left
  simp only [decodeRec, clsField, mField, nField]

theorem encodeRec_fields (x : Word) :
    encodeRec (x.extractLsb' 8 8) (x.extractLsb' 0 8) (x.extractLsb' 16 16) = x := by
  unfold encodeRec
  iterate 2 rw [BitVec.extractLsb'_append_extractLsb'_eq_extractLsb' (by rfl)]
  exact BitVec.extractLsb'_eq_self

/-- Decoding the word of a well-formed instruction, in its format, gives it back. -/
theorem decodeWord_encode {i : Instr} (wf : i.wellFormed = true) : decodeWord (formatOf i) (encode i) = i := by
  cases i with
  | drawNormal z r => exact decodeCmd_encode_drawInstr .normal z r
  | drawColourRemap z r => exact decodeCmd_encode_drawInstr .colourRemap z r
  | drawCrashRemap z r => exact decodeCmd_encode_drawInstr .crashRemap z r
  | drawTransparent z r => exact decodeCmd_encode_drawInstr .transparent z r
  | drawTransparentRemap z r => exact decodeCmd_encode_drawInstr .transparentRemap z r
  | drawBlackRemap z r => exact decodeCmd_encode_drawInstr .blackRemap z r
  | clear m z r => exact decodeCmd_encode_clear m z r
  | nop m z r => exact decodeCmd_encode_nop m z r
  | illegalCmd w => exact Machine.decodeCmd_of_illegal wf
  | skipRec m n => exact decodeRec_encodeRec 0xFF#8 m n
  | drawRec m n => exact decodeRec_encodeRec 0x00#8 m n
  | reservedRec cls m n =>
    simp only [Instr.wellFormed, reservedClass, Bool.and_eq_true, bne_iff_ne] at wf
    obtain ⟨notDraw, notSkip⟩ := wf
    refine (decodeRec_encodeRec cls m n).trans ?_
    rw [if_neg notSkip, if_neg notDraw]

/-- The instruction is well formed, and its encoding, in its format, is the word. -/
def Instr.StandsFor (i : Instr) (f : Format) (w : Word) : Prop :=
  encode i = w ∧ formatOf i = f ∧ i.wellFormed = true

theorem drawInstr_format_and_wellFormed (mode : Machine.Mode) (zoom : BitVec 3) (remapEn : Bool) :
    formatOf (Machine.drawInstr mode zoom remapEn) = .cmd ∧
      (Machine.drawInstr mode zoom remapEn).wellFormed = true := by
  cases mode <;> exact ⟨rfl, rfl⟩

theorem decodeCmd_standsFor (w : Word) : (decodeCmd w).StandsFor .cmd w := by
  cases illegal : illegalWord w with
  | true =>
    rw [Machine.decodeCmd_of_illegal illegal]
    exact ⟨rfl, rfl, illegal⟩
  | false =>
    have whole := encodeCmd_fields_of_legal illegal
    cases start : cmdStart w with
    | true =>
      obtain ⟨noClear, mode, number⟩ := fields_of_legal_start illegal start
      have modeField : BitVec.ofNat 3 mode.number = cmdMode w := by
        rw [← number, BitVec.ofNat_toNat, BitVec.setWidth_eq]
      rw [start, noClear, ← modeField, ← encode_drawInstr] at whole
      rw [decodeCmd_of_mode illegal start number]
      exact ⟨whole, drawInstr_format_and_wellFormed ..⟩
    | false =>
      rw [start] at whole
      cases clr : cmdClear w with
      | true =>
        rw [clr] at whole
        rw [Machine.decodeCmd_of_clear illegal clr]
        exact ⟨whole, rfl, rfl⟩
      | false =>
        rw [clr] at whole
        rw [decodeCmd_of_nop illegal start clr]
        exact ⟨whole, rfl, rfl⟩

theorem decodeRec_standsFor (x : Word) : (decodeRec x).StandsFor .indexRec x := by
  have whole := encodeRec_fields x
  have decoded := decodeRec_encodeRec (x.extractLsb' 8 8) (x.extractLsb' 0 8) (x.extractLsb' 16 16)
  rw [whole] at decoded
  rw [decoded]
  split
  · rename_i skip
    rw [skip] at whole
    exact ⟨whole, rfl, rfl⟩
  · split
    · rename_i draw
      rw [draw] at whole
      exact ⟨whole, rfl, rfl⟩
    · refine ⟨whole, rfl, ?_⟩
      simp [Instr.wellFormed, reservedClass, *]

/-! ## The host assembly's `draw` (R208) -/

/-- The shifted fields of a `draw` line that R208 allows are the encoding of its DRAW. -/
theorem drawWord_eq_encode (mode : Machine.Mode) {z : Nat} (hz : z ≤ 7) (remap : Bool) :
    Machine.drawWord mode z remap = encode (Machine.drawInstr mode (BitVec.ofNat 3 z) remap) := by
  have fields : ∀ (z : Fin 8) (remap : Bool), Machine.drawWord mode z remap =
      encode (Machine.drawInstr mode (BitVec.ofNat 3 z) remap) := by
    cases mode <;> decide
  exact fields ⟨z, by omega⟩ remap

/-! ## The statements -/

/-- Settles O6: the bytes make the word again (`decode_bytesOfWord`), and the word is the instruction's. -/
theorem decodeOfEncodeIsIdentity : Obligations.DecodeOfEncodeIsIdentity := by
  intro i rest wf
  rw [decode_bytesOfWord, decodeWord_encode wf]

/-- Settles O7: in each format the fields of a word, put together again, are the word. -/
theorem encodeOfDecodeIsIdentity : Obligations.EncodeOfDecodeIsIdentity := by
  intro f w
  cases f with
  | cmd => exact decodeCmd_standsFor w
  | indexRec => exact decodeRec_standsFor w

/-- Settles O8: each word is decoded as it stands. -/
theorem specWordsDecode : Obligations.SpecWordsDecode := by
  unfold Obligations.SpecWordsDecode
  decide

/-- Settles O60: a line that is not refused has the word of its DRAW (`drawWord_eq_encode`). -/
theorem assembledDrawDecodes : Obligations.AssembledDrawDecodes := by
  intro mode z remap
  refine ⟨fun above => if_pos above, fun hz uses missing => ?_, fun hz given => ?_⟩
  · simp [Machine.expand, Nat.not_lt.2 hz, uses, missing]
  · refine ⟨Machine.drawWord mode z remap, ?_, ?_⟩
    · have noMiss : ¬ (mode.usesRemap && !remap) = true := by simpa using given
      rw [Machine.expand, if_neg (Nat.not_lt.2 hz), if_neg noMiss]
    · rw [drawWord_eq_encode mode hz, decodeCmd_encode_drawInstr]

end Sys2Proof
end

section
/-! Commands and records as steps (44_control_commands.md section 1; 42_rle_decoder_clipper.md R147): the step that
runs a decoded instruction, the whole of `OnCmdWrite`, and a START right after reset. -/

namespace Sys2Proof.Machine

/-! ## The step that runs an instruction -/

/-- In an open row with columns to come, the step runs the record at `pi`, when it lies in its scanline and in SRC. -/
theorem step_record {s : State} {w : Walk} (hw : s.walk = some w) (hp : w.phase = .records) (hc : w.col < s.lim)
    (inScanline : w.pi + 4 ≤ w.endi) (inside : w.pi + 4 ≤ s.params.srcSize) :
    step s = exec (decodeRec (s.recordWord w.pi)) (s.setWalk { w with pi := w.pi + 4 }) := by
  rw [step_fetchRecord hw hp hc, State.fetchRecord_eq, if_neg (Nat.not_lt.2 inScanline), State.inSrc_iff.2 inside]
  rfl

/-- Four bytes of SRC decode to the record of their word, and none is left. -/
theorem decode_srcBytes (s : State) (addr : Nat) :
    decode .indexRec (s.srcBytes addr 4) = .ok (decodeRec (s.recordWord addr), []) := rfl

/-! ## `OnCmdWrite` (R200) -/

section
variable {s : State} {w : Word}

theorem State.onCmdWrite_of_dropped (busy : s.busy = true) (dropped : w.getLsbD 0 = true ∨ illegalWord w = true) :
    s.onCmdWrite w = s.markDropped := by
  have dropped : (w.getLsbD 0 || illegalWord w) = true := by simpa using dropped
  rw [State.onCmdWrite, if_pos busy, if_pos dropped]

theorem State.onCmdWrite_of_illegal (idle : s.busy = false) (illegal : illegalWord w = true) :
    s.onCmdWrite w = s.raiseImmediate := by
  simp [State.onCmdWrite, idle, illegal]

section
variable (legal : illegalWord w = false)
include legal

theorem State.onCmdWrite_of_start (idle : s.busy = false) (start : cmdStart w = true) {mode : Mode}
    (number : (cmdMode w).toNat = mode.number) :
    s.onCmdWrite w = s.startDraw mode (cmdZoom w) (cmdRemapEn w) := by
  obtain ⟨noClear, -⟩ := fields_of_legal_start legal start
  unfold cmdStart at start
  unfold cmdClear at noClear
  unfold cmdMode at number
  cases mode <;> simp only [State.onCmdWrite, idle, legal, noClear, start, number] <;> rfl

theorem State.onCmdWrite_of_clear (start : cmdStart w = false) (clr : cmdClear w = true) :
    s.onCmdWrite w = s.clearStatus := by
  unfold cmdStart at start
  unfold cmdClear at clr
  cases busy : s.busy <;> simp only [State.onCmdWrite, busy, legal, start, clr] <;> rfl

theorem State.onCmdWrite_of_nop (start : cmdStart w = false) (clr : cmdClear w = false) : s.onCmdWrite w = s := by
  unfold cmdStart at start
  unfold cmdClear at clr
  cases busy : s.busy <;> simp only [State.onCmdWrite, busy, legal, start, clr] <;> rfl

end

end

/-- The command of a CMD word does what `OnCmdWrite` says. -/
theorem exec_decodeCmd_eq_onCmdWrite (s : State) (w : Word) : exec (decodeCmd w) s = .next (s.onCmdWrite w) := by
  cases illegal : illegalWord w with
  | true =>
    rw [decodeCmd_of_illegal illegal]
    cases busy : s.busy with
    | true => rw [exec_illegalCmd_of_busy busy, State.onCmdWrite_of_dropped busy (.inr illegal)]
    | false =>
      rw [exec_illegalCmd_of_idle (s.not_busy_iff.1 busy), State.onCmdWrite_of_illegal busy illegal]
  | false =>
    cases start : cmdStart w with
    | true =>
      obtain ⟨-, mode, number⟩ := fields_of_legal_start illegal start
      rw [decodeCmd_of_mode illegal start number, exec_drawInstr]
      cases busy : s.busy with
      | true => rw [State.startOrDrop_of_busy busy, State.onCmdWrite_of_dropped busy (.inl start)]
      | false =>
        rw [State.startOrDrop_of_idle (s.not_busy_iff.1 busy), State.onCmdWrite_of_start illegal busy start number]
    | false =>
      cases clr : cmdClear w with
      | true => rw [decodeCmd_of_clear illegal clr, exec_clear, State.onCmdWrite_of_clear illegal start clr]
      | false => rw [decodeCmd_of_nop illegal start clr, exec_nop, State.onCmdWrite_of_nop illegal start clr]

/-! ## Runs -/

theorem run_zero (s : State) : Host.Core.run Sys2Proof.core 0 s = .next s := rfl

theorem run_succ_of_step {s t : State} (taken : step s = .next t) (n : Nat) :
    Host.Core.run Sys2Proof.core (n + 1) s = Host.Core.run Sys2Proof.core n t := by
  simp only [Host.Core.run]
  rw [show Sys2Proof.core.step s = .next t from taken]

/-- The state right after reset, with these actions left on the agenda. -/
def State.afterReset (s : State) (agenda : List Action) : State := State.applyReset { s with agenda := agenda }

/-! ## The statements -/

/-- Settles O9: between commit steps the step takes the agenda's next entry; in an open row it is the fetch at `pi`.
-/
theorem stepRunsDecodedInstruction : Obligations.StepRunsDecodedInstruction := by
  constructor
  · intro s word rest hw ha
    exact step_of_action hw ha
  · intro s w i hw hp hc inScanline inside decoded
    rw [decode_srcBytes] at decoded
    cases decoded
    exact step_record hw hp hc inScanline inside

/-- Settles O10: the word's command does what `OnCmdWrite` says in each of its cases (`exec_decodeCmd_eq_onCmdWrite`).
-/
theorem cmdWriteDispatch : Obligations.CmdWriteDispatch := by
  intro s w hw
  rw [step_cmdWrite hw, exec_decodeCmd_eq_onCmdWrite]

/-- Settles O3: reset leaves WIDTH 0, so the commit step of the START finds an empty clip. -/
theorem startAfterResetCompletes : Obligations.StartAfterResetCompletes := by
  intro s hw zoomLevel
  have reset : step { s with agenda := [.reset, wrAction .cmd 0x1#32, .engine] } = .next
      ((s.afterReset [.engine]).facing (wrAction .cmd 0x1#32)) :=
    step_reset (s := { s with agenda := [wrAction .cmd 0x1#32, .engine] }) hw
  have starts : step ((s.afterReset [.engine]).facing (wrAction .cmd 0x1#32)) = .next
      (((s.afterReset []).startDraw .normal 0#3 false).facing .engine) :=
    step_cmdWrite (s := s.afterReset [.engine]) rfl 0x1#32
  have ends : step (((s.afterReset []).startDraw .normal 0#3 false).facing .engine) = .next
      ((s.afterReset []).startDraw .normal 0#3 false).complete := by
    rw [step_facing_engine rfl rfl]
    exact congrArg Host.Outcome.next (State.beginCommit_of_emptyClip zoomLevel (fun uses => nomatch uses) rfl)
  refine ⟨((s.afterReset []).startDraw .normal 0#3 false).complete, ?_, rfl, rfl, rfl, rfl, rfl, rfl, rfl⟩
  rw [run_succ_of_step reset, run_succ_of_step starts, run_succ_of_step ends, run_zero]

end Sys2Proof.Machine
end

section
/-! The colour arithmetic (40_pixel_blend.md, R111 to R115): each result, computed in the integers, fits the 8 bits of
a lane, so that nothing is lost when it is narrowed; and Transparent, the mode that scales the background
(43_draw_modes.md). -/

namespace Sys2Proof.Machine

/-! ## Narrowing to a lane (R118) -/

/-- A weighted sum of three lanes, with weights of `total` together, is at most `255 * total`. -/
theorem weightedSum_le (c : Colour) {p q t total : Nat} (weights : p + q + t = total) :
    p * c.r.toNat + q * c.g.toNat + t * c.b.toNat ≤ 255 * total := by
  have lane (k : Nat) (x : Byte) : k * x.toNat ≤ k * 255 := Nat.mul_le_mul_left k (by omega)
  have := lane p c.r
  have := lane q c.g
  have := lane t c.b
  omega

theorem brightness_toNat (c : Colour) :
    (brightness c).toNat = (19595 * c.r.toNat + 38470 * c.g.toNat + 7471 * c.b.toNat) / 65536 := by
  have bound := weightedSum_le c (p := 19595) (q := 38470) (t := 7471) rfl
  rw [brightness, BitVec.toNat_ofNat]
  omega

theorem darkness_toNat (c : Colour) :
    (darkness c).toNat = (13063 * c.r.toNat + 25647 * c.g.toNat + 4981 * c.b.toNat) / 65536 := by
  have bound := weightedSum_le c (p := 13063) (q := 25647) (t := 4981) rfl
  rw [darkness, BitVec.toNat_ofNat]
  omega

theorem darkness_le (c : Colour) : (darkness c).toNat ≤ 170 := by
  have bound := weightedSum_le c (p := 13063) (q := 25647) (t := 4981) rfl
  rw [darkness_toNat]
  omega

/-- A factor of at most 1 never brightens. -/
theorem scaled_le (c : Byte) {nom den : Nat} (h : nom ≤ den) : c.toNat * nom / den ≤ c.toNat :=
  Nat.div_le_of_le_mul (by rw [Nat.mul_comm den]; exact Nat.mul_le_mul_left _ h)

theorem scaleLane_toNat (c : Byte) {nom den : Nat} (h : nom ≤ den) :
    (scaleLane c nom den).toNat = c.toNat * nom / den := by
  have bound := scaled_le c h
  rw [scaleLane, BitVec.toNat_ofNat, Nat.mod_eq_of_lt (bound.trans_lt c.isLt)]

theorem scaleLane_le (c : Byte) {nom den : Nat} (h : nom ≤ den) : (scaleLane c nom den).toNat ≤ c.toNat := by
  rw [scaleLane_toNat c h]
  exact scaled_le c h

/-! ## One lane of Compose (R114) -/

/-- `tdiv (d * a) 256`, for `a` of at most 256, lies between 0 and `d`. -/
theorem tdiv_between (d : Int) {a : Int} (h0 : 0 ≤ a) (h1 : a ≤ 256) :
    min d 0 ≤ Int.tdiv (d * a) 256 ∧ Int.tdiv (d * a) 256 ≤ max d 0 := by
  have nonneg (e : Int) (he : 0 ≤ e) : 0 ≤ Int.tdiv (e * a) 256 ∧ Int.tdiv (e * a) 256 ≤ e := by
    have upper : e * a ≤ e * 256 := Int.mul_le_mul_of_nonneg_left h1 he
    have lower : 0 ≤ e * a := Int.mul_nonneg he h0
    rw [Int.tdiv_eq_ediv_of_nonneg lower]
    omega
  rcases Int.le_total 0 d with hd | hd
  · have := nonneg d hd
    omega
  · have := nonneg (-d) (by omega)
    rw [Int.neg_mul, Int.neg_tdiv] at this
    omega

/-- The lane before it is narrowed lies between the background's and the source's. -/
theorem composed_between (s alpha b : Byte) :
    min (b.toNat : Int) s.toNat ≤ b.toNat + Int.tdiv (((s.toNat : Int) - b.toNat) * alpha.toNat) 256 ∧
    b.toNat + Int.tdiv (((s.toNat : Int) - b.toNat) * alpha.toNat) 256 ≤ max (b.toNat : Int) s.toNat := by
  have := tdiv_between ((s.toNat : Int) - b.toNat) (a := alpha.toNat) (by omega) (by omega)
  omega

theorem composeLane_toNat (s alpha b : Byte) : ((composeLane s alpha b).toNat : Int) =
    b.toNat + Int.tdiv (((s.toNat : Int) - b.toNat) * alpha.toNat) 256 := by
  have := composed_between s alpha b
  rw [composeLane, BitVec.toNat_ofInt]
  omega

/-! ## Transparent (R178, R179) -/

/-- The opaque and the partial case scale the background by different factors, and both clear the index. -/
theorem pixelRule_transparent (anim : Bool) (p : Nat) (c : Colour) (m : Byte) (s : State) :
    pixelRule .transparent anim p c m s = s.putPixel anim p
      (if c.a = 255#8 then makeTransparent (s.bg anim p) 3 4
       else makeTransparent (s.bg anim p) (1024 - c.a.toNat) 1024) 0#8 := by
  change (if opaquePixel c then _ else _) = _
  rw [putPixel_by_opacity, ite_self]

/-! ## The statements -/

/-- Settles O46: the weights come to 2^16, so the sum over 2^16 is at most 255. -/
theorem brightnessIsExact : Obligations.BrightnessIsExact := brightness_toNat

/-- Settles O47: the weights come to 43691, so the sum over 2^16 is at most 170. -/
theorem darkenIsExact : Obligations.DarkenIsExact :=
  fun c => ⟨darkness_toNat c, rfl, rfl, rfl, darkness_le c⟩

/-- Settles O48: between two lanes there is nothing to lose when the lane is narrowed. -/
theorem composeIsExactAndBetween : Obligations.ComposeIsExactAndBetween := by
  refine ⟨fun s alpha b => ?_, fun _ _ _ => rfl⟩
  have narrowed := composeLane_toNat s alpha b
  have := composed_between s alpha b
  exact ⟨narrowed, by omega, by omega⟩

/-- Settles O49: each lane is `scaleLane`. -/
theorem makeTransparentIsExact : Obligations.MakeTransparentIsExact := by
  intro c nom den h _
  exact ⟨scaleLane_toNat c.r h, scaleLane_toNat c.g h, scaleLane_toNat c.b h, rfl, scaleLane_le c.r h,
    scaleLane_le c.g h, scaleLane_le c.b h⟩

/-- Settles O43: both cases are the store of `pixelRule_transparent`. -/
theorem transparentPixel : Obligations.TransparentPixel := by
  intro s anim p c m wf _
  obtain ⟨fb, ap⟩ := State.putPixel_cell wf (pixelRule_transparent anim p c m s)
  exact ⟨pixelRule_sameExceptCell wf .., fun rgb => pixelRule_ap_of_rgb rgb .., ap,
    fun full => by rw [fb, if_pos full], fun part => by rw [fb, if_neg part]⟩

end Sys2Proof.Machine
end

section
/-! STATUS as a number (10_state.md section 2.2). -/

namespace Sys2Proof.Machine

/-- Two fields put together, as a number. -/
theorem toNat_append_eq_add {m n : Nat} (x : BitVec m) (y : BitVec n) :
    (x ++ y).toNat = 2 ^ n * x.toNat + y.toNat := by
  rw [BitVec.toNat_append, ← Nat.shiftLeft_add_eq_or_of_lt y.isLt, Nat.shiftLeft_eq, Nat.mul_comm]

theorem bit_toNat (b : Bool) : (bit b).toNat = b.toNat := BitVec.toNat_ofBool b

/-- Settles O54: the fields of the concatenation, each at the width of those below it. -/
theorem statusWordLayout : Obligations.StatusWordLayout := by
  intro s
  rw [State.statusWord]
  iterate 7 rw [toNat_append_eq_add]
  simp only [bit_toNat, BitVec.toNat_ofNat]
  omega

end Sys2Proof.Machine
end

section
/-! The index records of an open row (42_rle_decoder_clipper.md, R148, R150, R151): the visible columns of a run as
one interval, the values a record gives them, and a record outside a row. -/

namespace Sys2Proof.Machine

/-! ## The visible columns -/

/-- The visible columns, in order, are the `visibleCount` columns from `visibleFrom` on. -/
theorem State.visibleColumns_eq_range' (s : State) (w : Walk) (n : Half) :
    s.visibleColumns w.col n.toNat = List.range' (s.visibleFrom w) (s.visibleCount w n) := by
  have rising : (s.visibleColumns w.col n.toNat).SortedLT := ((List.sortedLT_range _).pairwise.filter _).sortedLT
  refine rising.eq_of_mem_iff (List.sortedLT_range' _ _ one_ne_zero) fun k => ?_
  rw [State.mem_visibleColumns_iff, List.mem_range'_1]

/-- A run whose columns all pass their checks gives each its colour record. -/
theorem State.drawnPixels_of_good {s : State} {w : Walk} (m : Byte) {count k : Nat}
    (good : ∀ j ∈ List.range' k count, s.goodColumn w j) : s.drawnPixels w m count k =
      .ok ((List.range' k count).map fun j => .draw (s.srcColour (w.pc + 4 * j)) m) := by
  induction count generalizing k with
  | zero => rfl
  | succ count ih =>
    rw [List.range'_succ, List.forall_mem_cons] at good
    obtain ⟨first, others⟩ := good
    simp only [State.drawnPixels, State.drawnPixel_of_goodColumn m first, ih others, List.range'_succ, List.map_cons]

/-! ## Outside a row -/

theorem State.openRow_eq_none {s : State} (h : ∀ w, s.walk = some w → w.phase ≠ .records) : s.openRow = none := by
  rw [Option.eq_none_iff_forall_not_mem]
  intro w row
  obtain ⟨hw, hp⟩ := State.openRow_eq_some.1 row
  exact h w hw hp

theorem State.onOpenRow_of_no_row {s : State} (h : s.openRow = none) (f : Walk → State) :
    s.onOpenRow f = .refused .recordOutsideRow := by
  rw [State.onOpenRow, h]

/-! ## The statements -/

/-- Settles O17: as many SKIP values as there are visible columns. -/
theorem skipRecordCoversVisibleColumns : Obligations.SkipRecordCoversVisibleColumns := by
  intro s w m n hw hp hn
  rw [exec_skipRec_of_row hw hp, if_neg hn, State.visibleColumns_eq_range', List.map_const', List.length_range']
  rfl

/-- Settles O18: the visible columns are one run (`State.visibleColumns_eq_range'`), each column of which passes its
checks. -/
theorem drawRecordCoversVisibleColumns : Obligations.DrawRecordCoversVisibleColumns := by
  intro s w m n hw hp hn good
  rw [State.visibleColumns_eq_range'] at good ⊢
  exact exec_drawRec_of_ok hw hp m n hn (State.drawnPixels_of_good m good)

/-- Settles O22: each record asks for the open row first. -/
theorem recordOutsideRowIsRefused : Obligations.RecordOutsideRowIsRefused := by
  intro s cls m n outside
  have noRow := State.openRow_eq_none outside
  exact ⟨State.onOpenRow_of_no_row noRow _, State.onOpenRow_of_no_row noRow _, State.onOpenRow_of_no_row noRow _⟩

end Sys2Proof.Machine
end

section
/-! The engine and the other agents (10_state.md sections 3, 4 and 6; 42_rle_decoder_clipper.md section 1): what a
part of the commit step keeps, and that it commutes with any change of the agenda and the inputs. -/

namespace Sys2Proof.Machine

/-! ## What the engine keeps (R33, R36) -/

/-- SRC, the registers, the parameters, the latched fields, the inputs, the agenda and the last read are the same. -/
def State.SameInputs (s t : State) : Prop :=
  t.src = s.src ∧ t.regs = s.regs ∧ t.params = s.params ∧ t.latch = s.latch ∧ t.apPresent = s.apPresent ∧
    t.animDisable = s.animDisable ∧ t.agenda = s.agenda ∧ t.rdata = s.rdata

theorem State.SameInputs.refl (s : State) : s.SameInputs s := ⟨rfl, rfl, rfl, rfl, rfl, rfl, rfl, rfl⟩

theorem State.CommitPart.sameInputs {s t : State} (part : s.CommitPart t) : s.SameInputs t := by
  cases part <;> exact ⟨rfl, rfl, rfl, rfl, rfl, rfl, rfl, rfl⟩

theorem State.engineTurn_sameInputs (s : State) : s.SameInputs s.engineTurn := by
  unfold State.engineTurn
  split
  · exact s.beginCommit_part.sameInputs
  · exact .refl s

/-- An error and the end of the DRAW both leave the engine IDLE. -/
theorem State.CommitPart.goesOn_of_busy {s t : State} (part : s.CommitPart t) (busy : t.busy = true) :
    ∃ w, t = s.setWalk w := by
  cases part with
  | goesOn w => exact ⟨w, rfl⟩
  | fails e _ => exact absurd busy Bool.false_ne_true
  | ends fb ap => exact absurd busy Bool.false_ne_true

/-! ## What the write phase does not look at -/

/-- A change of the state that no pixel rule can see: it leaves what the rules read and commutes with what they write.
-/
structure State.Unseen (f : State → State) : Prop where
  params (s : State) : (f s).params = s.params
  regs (s : State) : (f s).regs = s.regs
  latch (s : State) : (f s).latch = s.latch
  src (s : State) : (f s).src = s.src
  fb (s : State) : (f s).fb = s.fb
  ap (s : State) : (f s).ap = s.ap
  setFb (s : State) (p : Nat) (c : Colour) : (f s).setFb p c = f (s.setFb p c)
  setAp (s : State) (p : Nat) (v : Byte) : (f s).setAp p v = f (s.setAp p v)

namespace State.Unseen
variable {f : State → State} (unseen : State.Unseen f) (s : State)
include unseen

theorem fbAt (p : Nat) : (f s).fbAt p = s.fbAt p := by rw [State.fbAt, unseen.fb, State.fbAt]
theorem apAt (p : Nat) : (f s).apAt p = s.apAt p := by rw [State.apAt, unseen.ap, State.apAt]
theorem remap (i : Byte) : (f s).remap i = s.remap i := by simp only [State.remap, State.srcAt, unseen.src, unseen.regs]
theorem palLookup (i : Byte) : (f s).palLookup i = s.palLookup i := by simp only [State.palLookup, unseen.params]
theorem palNearest (c : Colour) : (f s).palNearest c = s.palNearest c := by
  simp only [State.palNearest, unseen.params]
theorem clipCell (y x : Nat) : (f s).clipCell y x = s.clipCell y x := by simp only [State.clipCell, unseen.regs]
theorem bg (anim : Bool) (p : Nat) : (f s).bg anim p = s.bg anim p := by
  simp only [State.bg, unseen.fbAt, unseen.apAt]

theorem putPixel (anim : Bool) (p : Nat) (c : Colour) (v : Byte) :
    (f s).putPixel anim p c v = f (s.putPixel anim p c v) := by
  cases anim with
  | false => exact unseen.setFb s p c
  | true => exact (congrArg (State.setAp · p v) (unseen.setFb s p c)).trans (unseen.setAp _ p v)

/-- Each condition and each stored value of a pixel rule is the same. -/
theorem pixelRule (mode : Mode) (anim : Bool) (p : Nat) (c : Colour) (m : Byte) :
    pixelRule mode anim p c m (f s) = f (pixelRule mode anim p c m s) := by
  cases mode with
  | normal | transparent =>
    simp only [Machine.pixelRule, pixelNormal, pixelTransparent, unseen.bg, unseen.putPixel, apply_ite f]
  | colourRemap | crashRemap =>
    simp only [Machine.pixelRule, pixelColourRemap, pixelCrashRemap, pixelLiteral, pixelRemapped, unseen.bg,
      unseen.remap, unseen.palLookup, unseen.putPixel, apply_ite f]
  | transparentRemap =>
    simp only [Machine.pixelRule, pixelTransparentRemap, unseen.apAt, unseen.fbAt, unseen.remap, unseen.palLookup,
      unseen.palNearest, unseen.setFb, unseen.setAp, apply_ite f]
  | blackRemap => exact unseen.putPixel s anim p black 0#8

theorem writeClipPixel (rows : List (List Pix)) (y x : Nat) :
    writeClipPixel rows y x (f s) = f (writeClipPixel rows y x s) := by
  unfold Machine.writeClipPixel
  rw [unseen.latch, unseen.clipCell]
  split
  · exact unseen.pixelRule s _ _ _ _ _
  · rfl
  · rfl

theorem writePixels (rows : List (List Pix)) (qs : List (Nat × Nat)) :
    writePixels rows qs (f s) = f (writePixels rows qs s) := by
  induction qs generalizing s with
  | nil => rfl
  | cons q qs ih => rw [writePixels_cons, unseen.writeClipPixel, ih, writePixels_cons]

theorem writePhase (rows : List (List Pix)) : (f s).writePhase rows = f (s.writePhase rows) := by
  simp only [State.writePhase, writeRows_eq_writePixels, unseen.regs, unseen.writePixels]

end State.Unseen

/-- The pixels of a run are read from SRC alone. -/
theorem State.drawnPixels_congr {s t : State} (src : t.src = s.src) (params : t.params = s.params) (w : Walk) (m : Byte)
    (count k : Nat) : t.drawnPixels w m count k = s.drawnPixels w m count k := by
  have colour (a : Nat) : t.srcColour a = s.srcColour a := by simp only [State.srcColour, State.srcAt, src]
  have inside (a : Nat) : t.inSrc a 4 = s.inSrc a 4 := by simp only [State.inSrc, params]
  have pixel (k : Nat) : t.drawnPixel w m k = s.drawnPixel w m k := by simp only [State.drawnPixel, colour, inside]
  induction count generalizing k with
  | zero => rfl
  | succ count ih => simp only [State.drawnPixels, pixel, ih]

/-! ## The other agents (R32, R267) -/

/-- The state with another agenda and other inputs. -/
def State.withAgents (others : List Action) (present disable : Bool) (s : State) : State :=
  { s with agenda := others, apPresent := present, animDisable := disable }

/-- The outcome with another agenda and other inputs in the next state, if there is one. -/
def Outcome.withAgents (others : List Action) (present disable : Bool) : Outcome → Outcome
  | .next s => .next (s.withAgents others present disable)
  | .fault r => .fault r
  | .refused r => .refused r

section
variable (others : List Action) (present disable : Bool) (s : State)

theorem State.unseen_withAgents : State.Unseen (State.withAgents others present disable) where
  params _ := rfl
  regs _ := rfl
  latch _ := rfl
  src _ := rfl
  fb _ := rfl
  ap _ := rfl
  setFb _ _ _ := rfl
  setAp _ _ _ := rfl

/-- Where what a record does to the open row commutes with the change, so does its outcome. -/
theorem State.onOpenRow_withAgents {f g : Walk → State} (h : ∀ w, g w = (f w).withAgents others present disable) :
    (s.withAgents others present disable).onOpenRow g =
      Outcome.withAgents others present disable (s.onOpenRow f) := by
  have row : (s.withAgents others present disable).openRow = s.openRow := rfl
  unfold State.onOpenRow
  rw [row]
  cases s.openRow with
  | none => rfl
  | some w => exact congrArg Host.Outcome.next (h w)

theorem exec_record_withAgents (x : Word) : exec (decodeRec x) (s.withAgents others present disable) =
    Outcome.withAgents others present disable (exec (decodeRec x) s) := by
  unfold decodeRec
  dsimp only
  split
  · refine State.onOpenRow_withAgents others present disable s fun w => ?_
    split <;> rfl
  · split
    · refine State.onOpenRow_withAgents others present disable s fun w => ?_
      have count (n : Half) : (s.withAgents others present disable).visibleCount w n = s.visibleCount w n := rfl
      have start : (s.withAgents others present disable).visibleFrom w = s.visibleFrom w := rfl
      rw [State.drawnPixels_congr (t := s.withAgents others present disable) (s := s) rfl rfl, count, start]
      split
      · rfl
      · split <;> rfl
    · exact State.onOpenRow_withAgents others present disable s fun w => rfl

theorem State.fetchRecord_withAgents (w : Walk) :
    ((s.withAgents others present disable).fetchRecord w).outcome =
      Outcome.withAgents others present disable (s.fetchRecord w).outcome := by
  have inSrc : (s.withAgents others present disable).inSrc w.pi 4 = s.inSrc w.pi 4 := rfl
  rw [State.fetchRecord_eq, State.fetchRecord_eq, inSrc]
  split
  · rfl
  · split
    · rfl
    · exact exec_record_withAgents others present disable (s.setWalk { w with pi := w.pi + 4 }) (s.recordWord w.pi)

theorem State.beginCommit_withAgents : (s.withAgents others present disable).beginCommit =
    s.beginCommit.withAgents others present disable := by
  simp only [State.beginCommit, apply_ite (State.withAgents others present disable)]
  rfl

theorem State.skipRow_withAgents (w : Walk) (left : Nat) : (s.withAgents others present disable).skipRow w left =
    (s.skipRow w left).withAgents others present disable := by
  simp only [State.skipRow, apply_ite (State.withAgents others present disable)]
  rfl

theorem State.startRow_withAgents (w : Walk) : (s.withAgents others present disable).startRow w =
    (s.startRow w).withAgents others present disable := by
  simp only [State.startRow, apply_ite (State.withAgents others present disable)]
  rfl

/-- A step of a walk commutes with any change of the agenda and the inputs. -/
theorem step_walk_withAgents {w : Walk} (hw : s.walk = some w) : step (s.withAgents others present disable) =
    Outcome.withAgents others present disable (step s) := by
  have hw' : (s.withAgents others present disable).walk = some w := hw
  cases hp : w.phase with
  | skipRows left =>
    cases left with
    | zero =>
      rw [step_of_walk hw, step_of_walk hw', State.continueWalk, State.continueWalk, hp]
      rfl
    | succ left =>
      rw [step_skipRow hw hp, step_skipRow hw' hp, State.skipRow_withAgents]
      rfl
  | rowStart =>
    rcases Nat.lt_or_ge w.y s.regs.height.toNat with hy | hy
    · rw [step_startRow hw hp hy, step_startRow hw' hp hy, State.startRow_withAgents]
      rfl
    · rw [step_writePhase hw hp hy, step_writePhase hw' hp hy,
        (State.unseen_withAgents others present disable).writePhase]
      rfl
  | records =>
    rcases Nat.lt_or_ge w.col s.lim with hc | hc
    · rw [step_fetchRecord hw hp hc, step_fetchRecord hw' hp hc, State.fetchRecord_withAgents]
    · rw [step_finishRow hw hp hc, step_finishRow hw' hp hc]
      rfl

end

/-! ## The statements -/

/-- Settles O30: of the parts of the commit step (`State.CommitPart`) only the one that goes on leaves the engine
BUSY. -/
theorem validationWritesNothing : Obligations.ValidationWritesNothing :=
  fun _ _ _ hw taken busy => (step_walk_part hw taken).goesOn_of_busy busy

/-- Settles O33: the engine's turn and a step of a walk are parts of the commit step, or nothing while IDLE. -/
theorem engineKeepsItsInputs : Obligations.EngineKeepsItsInputs := by
  refine ⟨fun s hw => ?_, fun s hw ha => ?_, fun s w hw => ?_⟩
  · exact ⟨s.engineTurn, step_facing hw .engine, s.engineTurn_sameInputs⟩
  · exact ⟨s.engineTurn, step_of_empty_agenda hw ha, s.engineTurn_sameInputs⟩
  · obtain ⟨t, taken⟩ := step_walk_next hw
    exact ⟨t, taken, (step_walk_part hw taken).sameInputs⟩

/-- Settles O11: a part of the commit step keeps the agenda and the inputs and commutes with a change of them. -/
theorem commitStepIgnoresOtherAgents : Obligations.CommitStepIgnoresOtherAgents := by
  constructor
  · intro s w others present disable hw
    obtain ⟨t, taken⟩ := step_walk_next hw
    obtain ⟨-, -, -, -, sameAp, sameDisable, sameAgenda, -⟩ := (step_walk_part hw taken).sameInputs
    refine ⟨t, taken, sameAgenda, sameAp, sameDisable, ?_⟩
    exact (step_walk_withAgents others present disable s hw).trans (by rw [taken]; rfl)
  · intro s others present disable hw busy
    obtain ⟨-, -, -, -, sameAp, sameDisable, sameAgenda, -⟩ := s.beginCommit_part.sameInputs
    refine ⟨s.beginCommit, step_facing_engine hw busy, sameAgenda, sameAp, sameDisable, ?_⟩
    calc step ((s.withAgents others present disable).facing .engine)
        = .next (s.withAgents others present disable).beginCommit := step_facing_engine hw busy
      _ = .next (s.beginCommit.withAgents others present disable) := by rw [State.beginCommit_withAgents]

end Sys2Proof.Machine
end

section
/-! What an action of the agenda can do (70_reset_and_hazards.md R267), said once for all actions, and the statements
about the host's and the environment's moves. -/

namespace Sys2Proof.Machine

/-! ## The effect of an action -/

/-- What a CMD write of `word` can lead to (R200). -/
inductive State.CommandEffect (s : State) (word : Word) : State → Prop
  | dropped : s.CommandEffect word s.markDropped
  | cleared : s.CommandEffect word s.clearStatus
  | nothing : s.CommandEffect word s
  | raised : s.eng = .idle → s.CommandEffect word s.raiseImmediate
  | started (mode : Mode) (zoom : BitVec 3) (remapEn : Bool) : s.eng = .idle → word.getLsbD 0 = true →
      illegalWord word = false → s.CommandEffect word (s.startDraw mode zoom remapEn)

theorem exec_decodeCmd_effect {s t : State} {word : Word} (taken : exec (decodeCmd word) s = .next t) :
    s.CommandEffect word t := by
  cases busy : s.busy with
  | true =>
    rcases exec_decodeCmd_of_busy busy word with h | h | h <;> cases h.symm.trans taken
    exacts [.dropped, .cleared, .nothing]
  | false =>
    rw [exec_decodeCmd_eq_onCmdWrite] at taken
    cases taken
    cases illegal : illegalWord word with
    | true => exact State.onCmdWrite_of_illegal busy illegal ▸ .raised (s.not_busy_iff.1 busy)
    | false =>
      cases start : cmdStart word with
      | true =>
        obtain ⟨-, mode, number⟩ := fields_of_legal_start illegal start
        rw [State.onCmdWrite_of_start illegal busy start number]
        exact .started _ _ _ (s.not_busy_iff.1 busy) start illegal
      | false =>
        cases clr : cmdClear word with
        | true => exact State.onCmdWrite_of_clear illegal start clr ▸ .cleared
        | false => exact (State.onCmdWrite_of_nop illegal start clr).symm ▸ .nothing

/-- What an action can lead to, where it answers a next state. -/
inductive State.ActionEffect (s : State) : Action → State → Prop
  | read (a : Action) (d : ReadData) : s.ActionEffect a (s.returned d)
  | command (word : Word) (t : State) : s.CommandEffect word t → s.ActionEffect (.regWrite 0x00#8 .word word) t
  | ignored (off : BitVec 8) (size : Access) (v : Word) : s.ActionEffect (.regWrite off size v) s
  | register (name : RegName) (v : Word) : s.eng = .idle →
      s.ActionEffect (.regWrite name.offset .word v) { s with regs := s.regs.write v name }
  | srcWrite (addr : Nat) (v : Byte) : s.eng = .idle → addr < s.params.srcSize →
      s.ActionEffect (.srcWrite addr v) (s.setSrc addr v)
  | fbWrite (i : Nat) (c : Colour) : s.eng = .idle → i < s.params.fbPixels →
      s.ActionEffect (.fbWrite i c) (s.setFb i c)
  | apWrite (i : Nat) (v : Byte) : s.eng = .idle → i < s.params.fbPixels →
      s.ActionEffect (.apWrite i v) (s.setAp i v)
  | envApWrite (i : Nat) (v : Byte) : s.eng = .idle → i < s.params.fbPixels →
      s.ActionEffect (.envApWrite i v) (s.setAp i v)
  | setApPresent (b : Bool) : s.ActionEffect (.setApPresent b) { s with apPresent := b }
  | setAnimDisable (b : Bool) : s.ActionEffect (.setAnimDisable b) { s with animDisable := b }
  | setPalette (lookup : List (Nat × Colour)) (nearest : List (Nat × Byte)) : s.eng = .idle →
      s.ActionEffect (.setPalette lookup nearest)
        { s with params := { s.params with palLookup := lookup, palNearest := nearest } }
  | resize (n : Nat) : s.eng = .idle → 1 ≤ n → n ≤ 2 ^ 32 → s.ActionEffect (.resize n) (s.resizePlanes n)
  | engine : s.ActionEffect .engine s.engineTurn
  | reset : s.ActionEffect .reset s.applyReset

section
variable {s : State}

theorem State.missingSrc_eq_none {addr : Nat} : s.missingSrc addr = none ↔ addr < s.params.srcSize := by
  simp [State.missingSrc]

theorem State.missingFb_eq_none {i : Nat} : s.missingFb i = none ↔ i < s.params.fbPixels := by
  simp [State.missingFb]

theorem State.missingAp_eq_none {i : Nat} :
    s.missingAp i = none ↔ s.apPresent = true ∧ i < s.params.fbPixels := by
  cases h : s.apPresent <;> simp [State.missingAp, h, State.missingFb_eq_none]

end

/-- A host access that answers a next state, with the engine's state and the cell's existence named. -/
theorem State.hostAccess_effect {s t u : State} {missing : Option Fault} (taken : s.hostAccess missing t = .next u) :
    s.eng = .idle ∧ missing = none ∧ u = t := by
  obtain ⟨idle, present, same⟩ := State.hostAccess_next.1 taken
  exact ⟨s.not_busy_iff.1 idle, present, same⟩

theorem State.act_effect {s t : State} {a : Action} (taken : (s.act a).outcome = .next t) : s.ActionEffect a t := by
  cases a with
  | regRead => cases taken; exact .read _ _
  | regWrite off size v =>
    by_cases hc : regOfAccess off size = some .cmd
    · obtain ⟨rfl, rfl⟩ := regOfAccess_eq_some.1 hc
      exact .command v t (exec_decodeCmd_effect taken)
    · rw [State.act, if_neg hc] at taken
      cases taken
      rcases s.regWrite_cases off size v with same | ⟨idle, name, reached, stored⟩
      · exact same.symm ▸ .ignored off size v
      · obtain ⟨rfl, rfl⟩ := regOfAccess_eq_some.1 reached
        exact stored ▸ .register name v (s.not_busy_iff.1 idle)
  | srcRead | fbRead | apRead =>
    obtain ⟨-, -, rfl⟩ := State.hostAccess_effect taken
    exact .read _ _
  | srcWrite addr v =>
    obtain ⟨idle, present, rfl⟩ := State.hostAccess_effect taken
    exact .srcWrite addr v idle (State.missingSrc_eq_none.1 present)
  | fbWrite i c =>
    obtain ⟨idle, present, rfl⟩ := State.hostAccess_effect taken
    exact .fbWrite i c idle (State.missingFb_eq_none.1 present)
  | apWrite i v =>
    obtain ⟨idle, present, rfl⟩ := State.hostAccess_effect taken
    exact .apWrite i v idle (State.missingAp_eq_none.1 present).2
  | setApPresent b => cases taken; exact .setApPresent b
  | setAnimDisable b => cases taken; exact .setAnimDisable b
  | envApWrite i v =>
    obtain ⟨idle, done⟩ := State.environmentChange_next.1 taken
    split at done
    · cases done
    · cases done
      exact .envApWrite i v (s.not_busy_iff.1 idle) (State.missingFb_eq_none.1 ‹_›)
  | setPalette lookup nearest =>
    obtain ⟨idle, done⟩ := State.environmentChange_next.1 taken
    cases done
    exact .setPalette lookup nearest (s.not_busy_iff.1 idle)
  | resize n =>
    obtain ⟨idle, done⟩ := State.environmentChange_next.1 taken
    split at done
    · cases done
      rename_i range
      exact .resize n (s.not_busy_iff.1 idle) range.1 range.2
    · cases done
  | engine => cases taken; exact .engine
  | reset => cases taken; exact .reset

/-- Where a step can lead: one part of the commit step in progress, the engine's turn, or the agenda's next action, at
the state without that entry. -/
inductive State.StepEffect (s : State) : State → Prop
  | walk {w : Walk} {t : State} : s.walk = some w → step s = .next t → s.StepEffect t
  | turn : s.walk = none → s.agenda = [] → s.StepEffect s.engineTurn
  | action {a : Action} {rest : List Action} {t : State} : s.walk = none → s.agenda = a :: rest →
      State.ActionEffect { s with agenda := rest } a t → s.StepEffect t

theorem step_effect {s t : State} (taken : step s = .next t) : s.StepEffect t := by
  rcases Option.eq_none_or_eq_some s.walk with hw | ⟨w, hw⟩
  · cases ha : s.agenda with
    | nil =>
      rw [step_of_empty_agenda hw ha] at taken
      cases taken
      exact .turn hw ha
    | cons a rest =>
      rw [step_of_action hw ha] at taken
      exact .action hw ha (State.act_effect taken)
  · exact .walk hw taken

/-! ## The host's and the environment's moves as steps -/

section
variable {s : State} (hw : s.walk = none)
include hw

/-- While IDLE a host access to a cell that exists is done. -/
theorem step_hostAccess {a : Action} {missing : Option Fault} {t : State}
    (access : s.act a = .settled (s.hostAccess missing t)) (idle : s.eng = .idle) (present : missing = none) :
    step (s.facing a) = .next t := by
  rw [step_facing hw, access]
  exact State.hostAccess_next.2 ⟨s.not_busy_iff.2 idle, present, rfl⟩

/-- While IDLE a change by the environment is done. -/
theorem step_environmentChange {a : Action} {o : Outcome} (change : s.act a = .settled (s.environmentChange o))
    (idle : s.eng = .idle) : step (s.facing a) = o := by
  rw [step_facing hw, change, State.environmentChange, s.not_busy_iff.2 idle]
  rfl

theorem step_hostAccess_of_busy {a : Action} {missing : Option Fault} {t : State}
    (access : s.act a = .settled (s.hostAccess missing t)) (busy : s.busy = true) :
    step (s.facing a) = .refused .hostMemoryAccessWhileBusy := by
  rw [step_facing hw, access]
  exact if_pos busy

theorem step_environmentChange_of_busy {a : Action} {o : Outcome}
    (change : s.act a = .settled (s.environmentChange o)) (busy : s.busy = true) :
    step (s.facing a) = .refused .environmentChangeWhileBusy := by
  rw [step_facing hw, change]
  exact if_pos busy

theorem step_envApWrite (idle : s.eng = .idle) {i : Nat} (present : i < s.params.fbPixels) (v : Byte) :
    step (s.facing (.envApWrite i v)) = .next (s.setAp i v) := by
  rw [step_environmentChange hw rfl idle, State.missingFb_eq_none.2 present]

theorem step_resize (idle : s.eng = .idle) {n : Nat} (least : 1 ≤ n) (greatest : n ≤ 2 ^ 32) :
    step (s.facing (.resize n)) = .next (s.resizePlanes n) := by
  rw [step_environmentChange hw rfl idle, if_pos ⟨least, greatest⟩]

end

/-- A cell that remains keeps its value. -/
theorem State.resizePlanes_sameCell {s : State} (wf : s.memWf = true) {n j : Nat} (hj : j < n) :
    s.sameCell j (s.resizePlanes n) := by
  obtain ⟨-, fbWf, apWf⟩ := s.memWf_iff.1 wf
  exact ⟨cellRead_cellsBelow n fbWf hj, cellRead_cellsBelow n apWf hj⟩

/-! ## The statements -/

/-- Settles O56: each store is `setFb`, `setAp` or `setSrc`, whose reads the laws of the memories give. -/
theorem hostMemoryWriteStores : Obligations.HostMemoryWriteStores := by
  constructor
  · intro s i c v inv hw idle
    obtain ⟨-, -, -, wf⟩ := inv
    refine ⟨fun hi => ?fb, fun hi attached => ?ap, fun hi => ?env, fun hi => ?src, fun lookup nearest => ?palette,
      fun least greatest => ?size⟩
    case fb =>
      exact ⟨s.setFb i c, step_hostAccess hw rfl idle (State.missingFb_eq_none.2 hi), rfl,
        State.setFb_fbAt_same wf i c, fun j hj => State.setFb_fbAt_other wf hj c⟩
    case ap =>
      exact ⟨s.setAp i v, step_hostAccess hw rfl idle (State.missingAp_eq_none.2 ⟨attached, hi⟩), rfl,
        State.setAp_apAt_same wf i v, fun j hj => State.setAp_apAt_other wf hj v⟩
    case env =>
      exact ⟨s.setAp i v, step_envApWrite hw idle hi v, rfl, State.setAp_apAt_same wf i v,
        fun j hj => State.setAp_apAt_other wf hj v⟩
    case src =>
      exact ⟨s.setSrc i v, step_hostAccess hw rfl idle (State.missingSrc_eq_none.2 hi), rfl,
        State.setSrc_srcAt_same wf i v, fun j hj => State.setSrc_srcAt_other wf hj v⟩
    case palette => exact step_environmentChange hw rfl idle
    case size =>
      exact ⟨s.resizePlanes i, step_resize hw idle least greatest, rfl,
        fun j hj => State.resizePlanes_sameCell wf hj⟩
  · intro s b hw
    exact ⟨step_facing hw _, step_facing hw _⟩

/-- Settles O57: the three reads are host accesses that change what was last read only. -/
theorem hostMemoryReadReturns : Obligations.HostMemoryReadReturns := by
  intro s i hw idle
  exact ⟨fun hi => step_hostAccess hw rfl idle (State.missingFb_eq_none.2 hi),
    fun hi attached => step_hostAccess hw rfl idle (State.missingAp_eq_none.2 ⟨attached, hi⟩),
    fun hi => step_hostAccess hw rfl idle (State.missingSrc_eq_none.2 hi)⟩

/-- Settles O59: BUSY is asked before anything else, by the host's accesses and by the environment's changes. -/
theorem memoryMovesNotEnabledWhileBusy : Obligations.MemoryMovesNotEnabledWhileBusy := by
  intro s i c v hw busy
  exact ⟨step_hostAccess_of_busy hw rfl busy, step_hostAccess_of_busy hw rfl busy, step_hostAccess_of_busy hw rfl busy,
    step_hostAccess_of_busy hw rfl busy, step_hostAccess_of_busy hw rfl busy, step_hostAccess_of_busy hw rfl busy,
    step_environmentChange_of_busy hw rfl busy, step_environmentChange_of_busy hw rfl busy,
    fun _ _ => step_environmentChange_of_busy hw rfl busy⟩

end Sys2Proof.Machine
end

section
/-! The invariant of the machine (10_state.md section 2.2; 20_memory.md section 1; 42_rle_decoder_clipper.md section
1): it holds at power-on, and every part of the commit step and every action of the agenda keeps it. -/

namespace Sys2Proof.Machine

/-! ## STATUS (R27, R237) -/

/-- STATUS keeps its form: an IDLE machine shows one of DONE, ERR or neither, a BUSY one neither, and a code goes with
ERR. -/
theorem State.statusWf_iff (s : State) : s.statusWf = true ↔
    (s.busy = true → s.status.done = false ∧ s.status.err = false) ∧
    (s.status.done = true → s.status.err = false) ∧ (s.status.errCode ≠ 0#4 ↔ s.status.err = true) ∧
    s.status.errCode.toNat ≤ 10 := by
  simp only [State.statusWf, Bool.and_eq_true, beq_iff_eq, decide_eq_true_eq, Bool.not_eq_true', and_assoc]
  cases s.busy <;> cases s.status.done <;> cases s.status.err <;> simp

/-- Nothing is reported: neither DONE nor ERR, and no code. -/
theorem State.statusWf_of_quiet {s : State} (noDone : s.status.done = false) (noErr : s.status.err = false)
    (noCode : s.status.errCode = 0#4) : s.statusWf = true := by
  simp [State.statusWf_iff, noDone, noErr, noCode]

/-- An error of any code is reported by an IDLE machine. -/
theorem State.statusWf_of_error {s : State} (idle : s.eng = .idle) (noDone : s.status.done = false)
    (err : s.status.err = true) {e : ErrorCode} (code : s.status.errCode = e.code) : s.statusWf = true := by
  have notBusy := s.not_busy_iff.2 idle
  rw [State.statusWf_iff, notBusy, noDone, err, code]
  cases e <;> decide

/-! ## The parameters (R5, R7) -/

theorem State.paramsWf_iff (s : State) : s.paramsWf = true ↔
    (1 ≤ s.params.nzoom ∧ s.params.nzoom ≤ 8) ∧ (1 ≤ s.params.srcSize ∧ s.params.srcSize ≤ 2 ^ 32) ∧
    1 ≤ s.params.fbPixels ∧ s.params.fbPixels ≤ 2 ^ 32 := by
  simp [State.paramsWf, and_assoc]

theorem State.resizePlanes_paramsWf {s : State} (wf : s.paramsWf = true) {n : Nat} (least : 1 ≤ n)
    (greatest : n ≤ 2 ^ 32) : (s.resizePlanes n).paramsWf = true := by
  obtain ⟨zoom, src, -⟩ := s.paramsWf_iff.1 wf
  exact (State.paramsWf_iff _).2 ⟨zoom, src, least, greatest⟩

/-! ## The decoded values (R154) -/

/-- The finished rows are whole, and one for each row the walk has passed. -/
def State.rowsDone (s : State) (w : Walk) : Prop :=
  w.rows.length = w.y ∧ ∀ row ∈ w.rows, row.length = s.regs.width.toNat

section
variable {s : State} {w : Walk}

theorem State.rowsWf_skipRows {left : Nat} (hp : w.phase = .skipRows left) :
    s.rowsWf w = true ↔ s.rowsDone w ∧ w.y = 0 ∧ w.row = [] := by
  simp [State.rowsWf, State.rowsDone, hp]

theorem State.rowsWf_rowStart (hp : w.phase = .rowStart) :
    s.rowsWf w = true ↔ s.rowsDone w ∧ w.y ≤ s.regs.height.toNat ∧ w.row = [] := by
  simp [State.rowsWf, State.rowsDone, hp]

theorem State.rowsWf_records (hp : w.phase = .records) :
    s.rowsWf w = true ↔ s.rowsDone w ∧ w.y < s.regs.height.toNat ∧
      w.row.length = min w.col s.lim - s.regs.skipLeft.toNat := by
  simp [State.rowsWf, State.rowsDone, hp]

theorem State.rowsWf_startWalk (s : State) : s.rowsWf s.startWalk = true :=
  (State.rowsWf_skipRows rfl).2 ⟨⟨rfl, fun _ h => absurd h List.not_mem_nil⟩, rfl, rfl⟩

/-- A record gives one value to each visible column it passes, so the open row keeps up with `col`. -/
theorem State.rowsWf_cover (wf : s.rowsWf w = true) (hp : w.phase = .records) (hc : w.col < s.lim) {n : Half}
    {pc pi : Nat} {ps : List Pix} (visible : ps.length = s.visibleCount w n) :
    s.rowsWf (Walk.cover { w with pc := pc, pi := pi } n ps) = true := by
  obtain ⟨done, hy, row⟩ := (State.rowsWf_records hp).1 wf
  have hp' : (Walk.cover { w with pc := pc, pi := pi } n ps).phase = .records := hp
  refine (State.rowsWf_records hp').2 ⟨done, hy, ?_⟩
  simp only [Walk.cover, List.length_append, row, visible, State.visibleCount, State.visibleFrom]
  omega

/-- A row is finished at `lim`, where it has WIDTH values. -/
theorem State.rowsWf_finishRow (wf : s.rowsWf w = true) (hp : w.phase = .records) (hc : s.lim ≤ w.col) :
    s.rowsWf w.finishRow = true := by
  obtain ⟨⟨count, whole⟩, hy, row⟩ := (State.rowsWf_records hp).1 wf
  have finished : w.row.length = s.regs.width.toNat := by
    rw [row, Nat.min_eq_right hc, State.lim, Nat.add_sub_cancel_left]
  refine (State.rowsWf_rowStart rfl).2 ⟨⟨?_, fun r hr => ?_⟩, hy, rfl⟩
  · simp [Walk.finishRow, count]
  · rcases List.mem_append.1 hr with earlier | last
    · exact whole r earlier
    · rwa [List.mem_singleton.1 last]

end

/-! ## The invariant of a machine with and without a walk -/

theorem State.Inv.of_no_walk {s : State} (hw : s.walk = none) (status : s.statusWf = true) (params : s.paramsWf = true)
    (mem : s.memWf = true) : s.Inv :=
  ⟨status, params, by simp [State.walkWf, hw], mem⟩

/-- What the invariant says of a walk in progress. -/
theorem State.Inv.walk_parts {s : State} {w : Walk} (inv : s.Inv) (hw : s.walk = some w) :
    s.busy = true ∧ s.checksHold = true ∧ s.rowsWf w = true := by
  obtain ⟨-, -, walk, -⟩ := inv
  simpa [State.walkWf, hw, and_assoc] using walk

/-- An IDLE machine has no walk. -/
theorem State.Inv.no_walk_of_idle {s : State} (inv : s.Inv) (idle : s.eng = .idle) : s.walk = none := by
  by_contra running
  obtain ⟨w, hw⟩ := Option.ne_none_iff_exists'.1 running
  obtain ⟨busy, -⟩ := inv.walk_parts hw
  simp [s.not_busy_iff.2 idle] at busy

section
variable {s : State} (inv : s.Inv)
include inv

/-- The walk may go on wherever its values are in place. -/
theorem State.Inv.setWalk (busy : s.busy = true) (checks : s.checksHold = true) {w : Walk} (rows : s.rowsWf w = true) :
    (s.setWalk w).Inv := by
  obtain ⟨status, params, -, mem⟩ := inv
  have walk : (s.setWalk w).walkWf = true := by
    change (s.busy && s.checksHold && s.rowsWf w) = true
    rw [busy, checks, rows]
    rfl
  exact ⟨status, params, walk, mem⟩

theorem State.Inv.raiseError (e : ErrorCode) : (s.raiseError e).Inv := by
  obtain ⟨-, params, -, mem⟩ := inv
  exact .of_no_walk rfl (State.statusWf_of_error rfl rfl rfl rfl) params mem

/-- A DRAW ends with any planes in their canonical form. -/
theorem State.Inv.complete (busy : s.busy = true) {t : State} (frame : t = { s with fb := t.fb, ap := t.ap })
    (mem : t.memWf = true) : t.complete.Inv := by
  have status := inv.status_of_busy busy
  obtain ⟨-, params, -, -⟩ := inv
  have kept : t.status = s.status := by rw [frame]
  have sameParams : t.params = s.params := by rw [frame]
  refine .of_no_walk rfl ?_ ?_ mem
  · rw [State.statusWf_iff, State.complete_status, kept, status]
    simp [State.busy]
  · simpa only [State.paramsWf, State.complete_params, sameParams] using params

/-! ## The commit step -/

theorem State.Inv.beginCommit (busy : s.busy = true) : s.beginCommit.Inv := by
  rcases s.beginCommit_cases with ⟨e, h⟩ | ⟨-, h⟩ | ⟨zoom, clip, legal, table, -, h⟩ <;> rw [h]
  · exact inv.raiseError e
  · exact inv.complete busy rfl inv.2.2.2
  · exact inv.setWalk busy (s.checksHold_iff.2 ⟨zoom, clip, legal, table⟩) s.rowsWf_startWalk

theorem State.Inv.engineTurn : s.engineTurn.Inv := by
  cases busy : s.busy with
  | true => exact State.engineTurn_of_busy busy ▸ inv.beginCommit busy
  | false => simpa [State.engineTurn, busy] using inv

/-- A part of the commit step in progress keeps the invariant. -/
theorem State.Inv.step_walk {t : State} {w : Walk} (hw : s.walk = some w) (taken : step s = .next t) : t.Inv := by
  obtain ⟨busy, checks, rows⟩ := inv.walk_parts hw
  obtain ⟨-, legal, mem⟩ := inv.of_walk hw
  rcases step_walk_cases hw with ⟨e, h⟩ | ⟨hp, h⟩ | ⟨left, hp, -, h⟩ | ⟨hp, hy, -, h⟩ | ⟨-, -, h⟩ |
    ⟨hp, hc, n, pc, ps, -, visible, h⟩ | ⟨hp, hc, h⟩ <;> cases h.symm.trans taken
  case inl => exact inv.raiseError e
  case inr.inl =>
    obtain ⟨done, first, row⟩ := (State.rowsWf_skipRows hp).1 rows
    exact inv.setWalk busy checks ((State.rowsWf_rowStart rfl).2 ⟨done, first ▸ Nat.zero_le _, row⟩)
  case inr.inr.inl =>
    exact inv.setWalk busy checks ((State.rowsWf_skipRows rfl).2 ((State.rowsWf_skipRows hp).1 rows))
  case inr.inr.inr.inl =>
    obtain ⟨done, -, -⟩ := (State.rowsWf_rowStart hp).1 rows
    exact inv.setWalk busy checks ((State.rowsWf_records rfl).2 ⟨done, hy, by simp⟩)
  case inr.inr.inr.inr.inl => exact inv.complete busy (writePhase_frame s w.rows) (writePhase_memWf mem legal w.rows)
  case inr.inr.inr.inr.inr.inl => exact inv.setWalk busy checks (State.rowsWf_cover rows hp hc visible)
  case inr.inr.inr.inr.inr.inr => exact inv.setWalk busy checks (State.rowsWf_finishRow rows hp hc)

/-! ## The actions -/

theorem State.Inv.commandEffect (hw : s.walk = none) {word : Word} {t : State} (effect : s.CommandEffect word t) :
    t.Inv := by
  obtain ⟨status, params, -, mem⟩ := id inv
  cases effect with
  | dropped => exact .of_no_walk hw status params mem
  | cleared => exact .of_no_walk hw (State.statusWf_of_quiet rfl rfl rfl) params mem
  | nothing => exact inv
  | raised idle => exact .of_no_walk hw (State.statusWf_of_error (e := .illegalCmd) idle rfl rfl rfl) params mem
  | started => exact .of_no_walk hw (State.statusWf_of_quiet rfl rfl rfl) params mem

theorem State.Inv.actionEffect (hw : s.walk = none) {a : Action} {t : State} (effect : s.ActionEffect a t) : t.Inv := by
  obtain ⟨status, params, -, mem⟩ := id inv
  cases effect with
  | command word t effect => exact inv.commandEffect hw effect
  | srcWrite addr v _ present => exact .of_no_walk hw status params (State.setSrc_memWf mem present v)
  | fbWrite i c _ present => exact .of_no_walk hw status params (State.setFb_memWf mem present c)
  | apWrite i v _ present | envApWrite i v _ present =>
    exact .of_no_walk hw status params (State.setAp_memWf mem present v)
  | resize n _ least greatest =>
    exact .of_no_walk hw status (State.resizePlanes_paramsWf params least greatest) (State.resizePlanes_memWf mem n)
  | engine => exact inv.engineTurn
  | reset => exact .of_no_walk rfl (State.statusWf_of_quiet rfl rfl rfl) params mem
  | ignored => exact inv
  | read | register | setApPresent | setAnimDisable | setPalette => exact .of_no_walk hw status params mem

end

/-! ## The statements -/

/-- Settles O5: each kind of step keeps the invariant; an action meets it at the state without its entry, of which the
invariant says the same. -/
theorem everyStepKeepsInvariant : Obligations.EveryStepKeepsInvariant := by
  intro s t inv taken
  cases step_effect taken with
  | walk hw taken => exact inv.step_walk hw taken
  | turn => exact inv.engineTurn
  | @action _ rest _ hw _ effect => exact State.Inv.actionEffect (s := { s with agenda := rest }) inv hw effect

/-- Settles O4: nothing is reported, the memories list nothing, and the opaque sizes are one more than a 32-bit
number. -/
theorem powerOnStateMeetsInvariant : Obligations.PowerOnStateMeetsInvariant := by
  refine State.Inv.of_no_walk rfl (State.statusWf_of_quiet rfl rfl rfl) ?_ State.reset_memWf
  have sizes (k : Fin (2 ^ 32)) : 1 ≤ k.val + 1 ∧ k.val + 1 ≤ 2 ^ 32 := by omega
  exact (State.paramsWf_iff _).2 ⟨by decide, sizes Config.srcSizePred, sizes Config.fbPixelsPred⟩

end Sys2Proof.Machine
end

section
/-! Which agent changes what (10_state.md; 44_control_commands.md section 1; 70_reset_and_hazards.md sections 1 and
4): for each piece of state, the actions that can change it, and what a step of a walk can change. -/

namespace Sys2Proof.Machine

/-! ## The actions that change a piece of state -/

/-- The action starts a DRAW: it is the write of a legal START, while IDLE (R201). -/
def State.Starts (s : State) (a : Action) : Prop :=
  s.eng = .idle ∧ ∃ v, a = .regWrite 0x00#8 .word v ∧ v.getLsbD 0 = true ∧ illegalWord v = false

section
variable {s t : State}

/-- A CMD write changes STATUS, the engine and the latched fields only. -/
theorem State.CommandEffect.frame {word : Word} (effect : s.CommandEffect word t) :
    t = { s with status := t.status, eng := t.eng, latch := t.latch } := by
  cases effect <;> rfl

/-- A CMD write that changes the latched fields or the engine is a START. -/
theorem State.CommandEffect.same_or_starts {word : Word} (effect : s.CommandEffect word t) :
    (t.latch = s.latch ∧ t.eng = s.eng) ∨ s.Starts (.regWrite 0x00#8 .word word) := by
  cases effect with
  | started _ _ _ idle start legal => exact .inr ⟨idle, word, rfl, start, legal⟩
  | dropped | cleared | nothing | raised => exact .inl ⟨rfl, rfl⟩

theorem State.engineTurn_of_idle (idle : s.eng = .idle) : s.engineTurn = s := by
  rw [State.engineTurn, s.not_busy_iff.2 idle]
  rfl

end

section
variable {s t : State} {a : Action} (effect : s.ActionEffect a t)
include effect

theorem State.ActionEffect.of_regs (changed : t.regs ≠ s.regs) :
    (∃ off v, a = .regWrite off .word v ∧ s.eng = .idle) ∨ a = .reset := by
  cases effect with
  | register name v idle => exact .inl ⟨_, v, rfl, idle⟩
  | reset => exact .inr rfl
  | command _ _ effect => exact absurd (by rw [effect.frame]) changed
  | engine =>
    obtain ⟨-, regs, -⟩ := s.engineTurn_sameInputs
    exact absurd regs changed
  | _ => exact absurd rfl changed

theorem State.ActionEffect.of_src (changed : t.src ≠ s.src) : ∃ addr v, a = .srcWrite addr v ∧ s.eng = .idle := by
  cases effect with
  | srcWrite addr v idle => exact ⟨addr, v, rfl, idle⟩
  | command _ _ effect => exact absurd (by rw [effect.frame]) changed
  | engine =>
    obtain ⟨src, -⟩ := s.engineTurn_sameInputs
    exact absurd src changed
  | _ => exact absurd rfl changed

theorem State.ActionEffect.of_fb (changed : t.fb ≠ s.fb) :
    (∃ i c, a = .fbWrite i c ∧ s.eng = .idle) ∨ (s.eng = .idle ∧ ∃ n, a = .resize n) := by
  cases effect with
  | fbWrite i c idle => exact .inl ⟨i, c, rfl, idle⟩
  | resize n idle => exact .inr ⟨idle, n, rfl⟩
  | command _ _ effect => exact absurd (by rw [effect.frame]) changed
  | engine =>
    obtain ⟨fb, -⟩ := s.engineTurn_planes
    exact absurd fb changed
  | _ => exact absurd rfl changed

theorem State.ActionEffect.of_ap (changed : t.ap ≠ s.ap) :
    (∃ i v, (a = .apWrite i v ∨ a = .envApWrite i v) ∧ s.eng = .idle) ∨ (s.eng = .idle ∧ ∃ n, a = .resize n) := by
  cases effect with
  | apWrite i v idle => exact .inl ⟨i, v, .inl rfl, idle⟩
  | envApWrite i v idle => exact .inl ⟨i, v, .inr rfl, idle⟩
  | resize n idle => exact .inr ⟨idle, n, rfl⟩
  | command _ _ effect => exact absurd (by rw [effect.frame]) changed
  | engine =>
    obtain ⟨-, ap⟩ := s.engineTurn_planes
    exact absurd ap changed
  | _ => exact absurd rfl changed

theorem State.ActionEffect.of_apPresent (changed : t.apPresent ≠ s.apPresent) : ∃ b, a = .setApPresent b := by
  cases effect with
  | setApPresent b => exact ⟨b, rfl⟩
  | command _ _ effect => exact absurd (by rw [effect.frame]) changed
  | engine =>
    obtain ⟨-, -, -, -, present, -⟩ := s.engineTurn_sameInputs
    exact absurd present changed
  | _ => exact absurd rfl changed

theorem State.ActionEffect.of_animDisable (changed : t.animDisable ≠ s.animDisable) : ∃ b, a = .setAnimDisable b := by
  cases effect with
  | setAnimDisable b => exact ⟨b, rfl⟩
  | command _ _ effect => exact absurd (by rw [effect.frame]) changed
  | engine =>
    obtain ⟨-, -, -, -, -, disable, -⟩ := s.engineTurn_sameInputs
    exact absurd disable changed
  | _ => exact absurd rfl changed

theorem State.ActionEffect.of_status (changed : t.status ≠ s.status) :
    (∃ v, a = .regWrite 0x00#8 .word v) ∨ a = .engine ∨ a = .reset := by
  cases effect with
  | command word => exact .inl ⟨word, rfl⟩
  | engine => exact .inr (.inl rfl)
  | reset => exact .inr (.inr rfl)
  | _ => exact absurd rfl changed

theorem State.ActionEffect.of_latch (changed : t.latch ≠ s.latch) : s.Starts a ∨ a = .reset := by
  cases effect with
  | command _ _ effect =>
    rcases effect.same_or_starts with ⟨latch, -⟩ | starts
    · exact absurd latch changed
    · exact .inl starts
  | reset => exact .inr rfl
  | engine =>
    obtain ⟨-, -, -, latch, -⟩ := s.engineTurn_sameInputs
    exact absurd latch changed
  | _ => exact absurd rfl changed

theorem State.ActionEffect.of_eng (changed : t.eng ≠ s.eng) :
    s.Starts a ∨ (a = .engine ∧ s.eng = .busy) ∨ (a = .reset ∧ t.eng = .idle) := by
  cases effect with
  | command _ _ effect =>
    rcases effect.same_or_starts with ⟨-, eng⟩ | starts
    · exact absurd eng changed
    · exact .inl starts
  | reset => exact .inr (.inr ⟨rfl, rfl⟩)
  | engine =>
    refine .inr (.inl ⟨rfl, ?_⟩)
    cases eng : s.eng with
    | busy => rfl
    | idle => exact absurd (congrArg State.eng (State.engineTurn_of_idle eng)) changed
  | _ => exact absurd rfl changed

end

/-! ## The write phase -/

/-- A step of a walk that changes a plane is the write phase. -/
theorem State.Inv.readyToWrite {s t : State} {w : Walk} (inv : s.Inv) (hw : s.walk = some w) (taken : step s = .next t)
    (changed : ¬ (t.fb = s.fb ∧ t.ap = s.ap)) : s.readyToWrite w := by
  obtain ⟨-, -, rows⟩ := inv.walk_parts hw
  rcases step_walk_cases hw with
    ⟨_, h⟩ | ⟨_, h⟩ | ⟨_, _, _, h⟩ | ⟨_, _, _, h⟩ | ⟨hp, hy, _⟩ | ⟨_, _, _, _, _, _, _, h⟩ | ⟨_, _, h⟩
  case inr.inr.inr.inr.inl =>
    obtain ⟨-, upper, -⟩ := (State.rowsWf_rowStart hp).1 rows
    exact ⟨hw, hp, Nat.le_antisymm upper hy⟩
  all_goals
    cases h.symm.trans taken
    exact absurd ⟨rfl, rfl⟩ changed

/-! ## The statement -/

/-- Settles O58: a step of a walk and the engine's turn keep their inputs, and each action changes what it is for. -/
theorem changesComeFromTheirAgent : Obligations.ChangesComeFromTheirAgent := by
  intro s t inv taken started engineStep wasReset resized writePhase
  cases step_effect taken with
  | @walk w _ hw taken =>
    obtain ⟨src, regs, -, latch, present, disable, -⟩ := (step_walk_part hw taken).sameInputs
    have writes : ¬ (t.fb = s.fb ∧ t.ap = s.ap) → writePhase := fun changed => ⟨w, inv.readyToWrite hw taken changed⟩
    have inWalk : engineStep := .inl ⟨w, hw⟩
    exact ⟨absurd regs, absurd src, fun changed => .inr (.inr (writes fun same => changed same.1)),
      fun changed => .inr (.inr (writes fun same => changed same.2)), absurd present, absurd disable,
      fun _ => .inr (.inl inWalk), absurd latch,
      fun idle => absurd (hw.symm.trans (inv.no_walk_of_idle idle)) nofun, fun _ _ => .inl inWalk⟩
  | turn _ alone =>
    obtain ⟨src, regs, -, latch, present, disable, -⟩ := s.engineTurn_sameInputs
    obtain ⟨fb, ap⟩ := s.engineTurn_planes
    have isTurn : engineStep := .inr (.inl alone)
    refine ⟨absurd regs, absurd src, absurd fb, absurd ap, absurd present, absurd disable, fun _ => .inr (.inl isTurn),
      absurd latch, fun idle busy => ?_, fun _ _ => .inl isTurn⟩
    rw [State.engineTurn_of_idle idle, idle] at busy
    cases busy
  | @action a rest _ _ next effect =>
    have starts : State.Starts { s with agenda := rest } a → started := by
      rintro ⟨idle, v, rfl, start, legal⟩
      exact ⟨idle, v, rest, next, start, legal⟩
    refine ⟨fun changed => ?regs, fun changed => ?src, fun changed => ?fb, fun changed => ?ap, fun changed => ?present,
      fun changed => ?disable, fun changed => ?status, fun changed => ?latch, fun idle busy => ?busy,
      fun busy idle => ?idle⟩
    case regs =>
      rcases effect.of_regs changed with ⟨off, v, rfl, idle⟩ | rfl
      · exact .inl ⟨off, v, rest, next, idle⟩
      · exact .inr ⟨rest, next⟩
    case src =>
      obtain ⟨addr, v, rfl, idle⟩ := effect.of_src changed
      exact ⟨addr, v, rest, next, idle⟩
    case fb =>
      rcases effect.of_fb changed with ⟨i, c, rfl, idle⟩ | ⟨idle, n, rfl⟩
      · exact .inl ⟨i, c, rest, next, idle⟩
      · exact .inr (.inl ⟨idle, n, rest, next⟩)
    case ap =>
      rcases effect.of_ap changed with ⟨i, v, rfl | rfl, idle⟩ | ⟨idle, n, rfl⟩
      · exact .inl ⟨i, v, rest, .inl next, idle⟩
      · exact .inl ⟨i, v, rest, .inr next, idle⟩
      · exact .inr (.inl ⟨idle, n, rest, next⟩)
    case present =>
      obtain ⟨b, rfl⟩ := effect.of_apPresent changed
      exact ⟨b, rest, next⟩
    case disable =>
      obtain ⟨b, rfl⟩ := effect.of_animDisable changed
      exact ⟨b, rest, next⟩
    case status =>
      rcases effect.of_status changed with ⟨v, rfl⟩ | rfl | rfl
      · exact .inl ⟨v, rest, next⟩
      · exact .inr (.inl (.inr (.inr ⟨rest, next⟩)))
      · exact .inr (.inr ⟨rest, next⟩)
    case latch =>
      rcases effect.of_latch changed with start | rfl
      · exact .inl (starts start)
      · exact .inr ⟨rest, next⟩
    case busy =>
      rcases effect.of_eng (by rw [busy]; simp [idle]) with start | ⟨-, wasBusy⟩ | ⟨-, isIdle⟩
      · exact starts start
      · exact absurd (idle.symm.trans wasBusy) nofun
      · exact absurd (busy.symm.trans isIdle) nofun
    case idle =>
      rcases effect.of_eng (by rw [idle]; simp [busy]) with ⟨wasIdle, -⟩ | ⟨rfl, -⟩ | ⟨rfl, -⟩
      · exact absurd (busy.symm.trans wasIdle) nofun
      · exact .inl (.inr (.inr ⟨rest, next⟩))
      · exact .inr ⟨rest, next⟩

end Sys2Proof.Machine
end

section
/-! The commit step against the pseudocode of R141 (42_rle_decoder_clipper.md sections 1 and 7): the parts of a walk,
taken one after another, come to what `State.drawSpec` gives, with nothing but the walk changed in between. Each loop
of the pseudocode has a lemma here, by induction on what is left of it. -/

namespace Sys2Proof.Machine

/-! ## A walk that leads to a state -/

/-- Within `bound` steps the walk `w` of `s` leads to `t`, through states in which only the walk differs from `s`. -/
inductive State.LeadsTo (s t : State) : Nat → Walk → Prop
  | last {bound : Nat} {w : Walk} : step (s.setWalk w) = .next t → s.LeadsTo t (bound + 1) w
  | part {bound : Nat} {w w' : Walk} : step (s.setWalk w) = .next (s.setWalk w') → s.LeadsTo t bound w' →
      s.LeadsTo t (bound + 1) w

section
variable {s t : State}

theorem State.LeadsTo.mono {bound bound' : Nat} {w : Walk} (leads : s.LeadsTo t bound w) (h : bound ≤ bound') :
    s.LeadsTo t bound' w := by
  induction leads generalizing bound' with
  | last taken =>
    obtain ⟨k, rfl⟩ := Nat.exists_eq_add_of_le' (Nat.le_of_add_left_le h)
    exact .last taken
  | part taken _ ih =>
    obtain ⟨k, rfl⟩ := Nat.exists_eq_add_of_le' (Nat.le_of_add_left_le h)
    exact .part taken (ih (by omega))

/-- The run of such a walk. -/
theorem State.LeadsTo.run {bound : Nat} {w : Walk} (leads : s.LeadsTo t bound w) :
    ∃ n, 0 < n ∧ n ≤ bound ∧ Host.Core.run Sys2Proof.core n (s.setWalk w) = .next t ∧
      ∀ k < n, ∃ w', Host.Core.run Sys2Proof.core k (s.setWalk w) = .next (s.setWalk w') := by
  induction leads with
  | @last bound w taken =>
    refine ⟨1, Nat.one_pos, by omega, run_succ_of_step taken 0, fun k hk => ?_⟩
    obtain rfl : k = 0 := by omega
    exact ⟨w, rfl⟩
  | @part bound w w' taken _ ih =>
    obtain ⟨n, _, upper, reached, between⟩ := ih
    refine ⟨n + 1, n.succ_pos, by omega, (run_succ_of_step taken n).trans reached, fun k hk => ?_⟩
    cases k with
    | zero => exact ⟨w, rfl⟩
    | succ k =>
      obtain ⟨w'', passed⟩ := between k (by omega)
      exact ⟨w'', (run_succ_of_step taken k).trans passed⟩

end

/-- How the DRAW ends, once the pseudocode's phase 1 has its result (R140, R155, R232). -/
def State.concluded (s : State) : Except ErrorCode (List (List Pix)) → State
  | .error e => s.raiseError e
  | .ok rows => (s.writePhase rows).complete

theorem State.unseen_setWalk (w : Walk) : State.Unseen (State.setWalk · w) where
  params _ := rfl
  regs _ := rfl
  latch _ := rfl
  src _ := rfl
  fb _ := rfl
  ap _ := rfl
  setFb _ _ _ := rfl
  setAp _ _ _ := rfl

/-! ## The fields of a record (R52, R91) -/

/-- The length field of the record at an address. -/
def State.recordLength (s : State) (addr : Nat) : Half := s.srcAt (addr + 3) ++ s.srcAt (addr + 2)

theorem State.srcRead_two (s : State) (a : Nat) : s.srcRead a 2 = (s.srcAt (a + 1) ++ s.srcAt a).toNat := by
  rw [toNat_append_eq_add, Nat.add_comm]
  rfl

theorem decodeRec_recordWord (s : State) (addr : Nat) : decodeRec (s.recordWord addr) =
    if s.srcAt (addr + 1) = 0xFF#8 then .skipRec (s.srcAt addr) (s.recordLength addr)
    else if s.srcAt (addr + 1) = 0x00#8 then .drawRec (s.srcAt addr) (s.recordLength addr)
    else .reservedRec (s.srcAt (addr + 1)) (s.srcAt addr) (s.recordLength addr) :=
  decodeRec_encodeRec (s.srcAt (addr + 1)) (s.srcAt addr) (s.recordLength addr)

/-- One round of the pseudocode's `while col < lim`, with the fields of the record named. -/
theorem specRecords_succ (s : State) (endc endi fuel pc pi col : Nat) :
    specRecords s endc endi (fuel + 1) pc pi col =
      if s.lim ≤ col then .ok []
      else if endi < pi + 4 then .error .streamIndexOverrun
      else if s.params.srcSize < pi + 4 then .error .srcRange
      else if s.srcAt (pi + 1) ≠ 0x00#8 ∧ s.srcAt (pi + 1) ≠ 0xFF#8 then .error .streamClass
      else if (s.recordLength pi).toNat = 0 then .error .streamZeroRun
      else (do
        let ps ← specColumns s endc pc col (s.srcAt (pi + 1)) (s.srcAt pi) (s.recordLength pi).toNat 0
        let rest ← specRecords s endc endi fuel
          (if s.srcAt (pi + 1) = 0x00#8 then pc + 4 * (s.recordLength pi).toNat else pc) (pi + 4)
          (col + (s.recordLength pi).toNat)
        pure (ps ++ rest)) := by
  have word : BitVec.ofNat 16 (s.srcRead pi 2) = s.srcAt (pi + 1) ++ s.srcAt pi := by
    rw [State.srcRead_two, BitVec.ofNat_toNat, BitVec.setWidth_eq]
  have cls : (s.srcAt (pi + 1) ++ s.srcAt pi).extractLsb' 8 8 = s.srcAt (pi + 1) := BitVec.extractLsb'_append_eq_left
  have m : (s.srcAt (pi + 1) ++ s.srcAt pi).extractLsb' 0 8 = s.srcAt pi := BitVec.extractLsb'_append_eq_right
  have n : s.srcRead (pi + 2) 2 = (s.recordLength pi).toNat := s.srcRead_two (pi + 2)
  rw [specRecords]
  simp only [word, cls, m, n]

theorem toNat_ne_zero {n : Half} (hn : n ≠ 0#16) : n.toNat ≠ 0 := fun h => hn (BitVec.eq_of_toNat_eq h)

/-- The walk past the record at `pi` (R147). -/
def Walk.fetched (w : Walk) : Walk := { w with pi := w.pi + 4 }

/-! ## The columns of a record (R148, R150, R151) -/

/-- How many of the `left` columns of a run from column `k` on are visible. -/
def State.visibleLeft (s : State) (w : Walk) (left k : Nat) : Nat :=
  min (k + left) (s.lim - w.col) - max k (s.visibleFrom w)

theorem State.visibleLeft_whole (s : State) (w : Walk) (n : Half) :
    s.visibleLeft w n.toNat 0 = s.visibleCount w n := by
  simp [State.visibleLeft, State.visibleCount]

section
variable {s : State} {w : Walk} {left k : Nat}

theorem State.visibleLeft_zero : s.visibleLeft w 0 k = 0 := by
  unfold State.visibleLeft
  omega

/-- Right of the clip no column is visible. -/
theorem State.visibleLeft_of_right (right : s.lim ≤ w.col + k) : s.visibleLeft w left k = 0 := by
  unfold State.visibleLeft
  omega

/-- A column left of the clip is passed. -/
theorem State.visibleLeft_of_left (before : w.col + k < s.regs.skipLeft.toNat) :
    s.visibleLeft w (left + 1) k = s.visibleLeft w left (k + 1) ∧
    max k (s.visibleFrom w) = max (k + 1) (s.visibleFrom w) := by
  unfold State.visibleLeft State.visibleFrom
  omega

/-- A column in the clip is the next visible one. -/
theorem State.visibleLeft_of_visible (notRight : ¬ s.lim ≤ w.col + k)
    (notLeft : ¬ w.col + k < s.regs.skipLeft.toNat) :
    s.visibleLeft w (left + 1) k = s.visibleLeft w left (k + 1) + 1 ∧ max k (s.visibleFrom w) = k ∧
    max (k + 1) (s.visibleFrom w) = k + 1 := by
  unfold State.visibleLeft State.visibleFrom
  omega

end

section
variable (s : State) (w : Walk) (m : Byte)

/-- The columns of a skip record, from column `k` of the run on. -/
theorem specColumns_skip (left k : Nat) : specColumns s w.endc w.pc w.col 0xFF#8 m left k =
    .ok (List.replicate (s.visibleLeft w left k) .skip) := by
  induction left generalizing k with
  | zero =>
    rw [State.visibleLeft_zero]
    rfl
  | succ left ih =>
    rw [specColumns, ih]
    by_cases right : s.lim ≤ w.col + k
    · rw [if_pos right, State.visibleLeft_of_right right]
      rfl
    · rw [if_neg right]
      by_cases before : w.col + k < s.regs.skipLeft.toNat
      · obtain ⟨same, -⟩ := State.visibleLeft_of_left (left := left) before
        rw [if_pos before, same]
      · obtain ⟨next, -⟩ := State.visibleLeft_of_visible (left := left) right before
        rw [if_neg before, if_pos rfl, next]
        rfl

/-- A drawable column that passes its checks, and the others after it. -/
theorem State.drawnPixels_succ (count k : Nat) : s.drawnPixels w m (count + 1) k =
    if w.endc < w.pc + 4 * k + 4 then .error .streamColourOverrun
    else if s.params.srcSize < w.pc + 4 * k + 4 then .error .srcRange
    else if (s.srcColour (w.pc + 4 * k)).a = 0#8 then .error .streamAlpha0
    else (s.drawnPixels w m count (k + 1)).map (.draw (s.srcColour (w.pc + 4 * k)) m :: ·) := by
  split_ifs with overrun outside alpha
  · exact State.drawnPixels_succ_of_error (State.drawnPixel_of_overrun m overrun) count
  · exact State.drawnPixels_succ_of_error (State.drawnPixel_of_outside m (Nat.not_lt.1 overrun) outside) count
  · exact State.drawnPixels_succ_of_error
      (State.drawnPixel_of_alpha0 m (Nat.not_lt.1 overrun) (Nat.not_lt.1 outside) alpha) count
  · have good : s.goodColumn w k := ⟨Nat.not_lt.1 overrun, Nat.not_lt.1 outside, alpha⟩
    simp only [State.drawnPixels, State.drawnPixel_of_goodColumn m good]
    cases s.drawnPixels w m count (k + 1) <;> rfl

/-- The pixels of a run do not depend on where the next record is. -/
theorem State.drawnPixels_fetched (count k : Nat) :
    (s.setWalk w.fetched).drawnPixels w.fetched m count k = s.drawnPixels w m count k := by
  have pixel (k : Nat) : (s.setWalk w.fetched).drawnPixel w.fetched m k = s.drawnPixel w m k := rfl
  induction count generalizing k with
  | zero => rfl
  | succ count ih => simp only [State.drawnPixels, pixel, ih]

/-- The columns of a drawable record, from column `k` of the run on. -/
theorem specColumns_draw (left k : Nat) : specColumns s w.endc w.pc w.col 0x00#8 m left k =
    s.drawnPixels w m (s.visibleLeft w left k) (max k (s.visibleFrom w)) := by
  induction left generalizing k with
  | zero =>
    rw [State.visibleLeft_zero]
    rfl
  | succ left ih =>
    rw [specColumns, ih]
    by_cases right : s.lim ≤ w.col + k
    · rw [if_pos right, State.visibleLeft_of_right right]
      rfl
    · rw [if_neg right]
      by_cases before : w.col + k < s.regs.skipLeft.toNat
      · obtain ⟨same, start⟩ := State.visibleLeft_of_left (left := left) before
        rw [if_pos before, same, start]
      · obtain ⟨next, here, start⟩ := State.visibleLeft_of_visible (left := left) right before
        rw [if_neg before, if_neg (by decide), next, here, start, State.drawnPixels_succ]

end

/-! ## The parts of a walk against the loops -/

/-- The result of phase 1 from the open row of `w` on, with `fuel` rounds left for its records and `left` rows to come
after it (R146 to R152). -/
def specFrom (s : State) (left fuel : Nat) (w : Walk) : Except ErrorCode (List (List Pix)) := do
  let ps ← specRecords s w.endc w.endi fuel w.pc w.pi w.col
  let rest ← specRows s left w.endc w.endi
  pure (w.rows ++ (w.row ++ ps) :: rest)

theorem specFrom_of_error {s : State} {left fuel : Nat} {w : Walk} {e : ErrorCode}
    (fails : specRecords s w.endc w.endi fuel w.pc w.pi w.col = .error e) : specFrom s left fuel w = .error e := by
  rw [specFrom, fails]
  rfl

/-- A record that gives the values `ps` to the open row, and the rest of phase 1 after it. -/
theorem specFrom_cover {s : State} {left fuel fuel' pc : Nat} {w : Walk} {n : Half} {ps : List Pix}
    (covers : specRecords s w.endc w.endi fuel' w.pc w.pi w.col =
      (do let rest ← specRecords s w.endc w.endi fuel pc (w.pi + 4) (w.col + n.toNat)
          pure (ps ++ rest))) :
    specFrom s left fuel' w = specFrom s left fuel (Walk.cover { w with pc := pc, pi := w.pi + 4 } n ps) := by
  rw [specFrom, specFrom, covers]
  simp only [Walk.cover]
  cases specRecords s w.endc w.endi fuel pc (w.pi + 4) (w.col + n.toNat) with
  | error e => rfl
  | ok qs =>
    change (do
      let rest ← specRows s left w.endc w.endi
      pure (w.rows ++ (w.row ++ (ps ++ qs)) :: rest)) = _
    rw [← List.append_assoc]
    rfl

/-- The walk with row `y` opened at its headers (R146). -/
def State.openedRow (s : State) (w : Walk) : Walk :=
  { w with phase := .records, endc := s.nextScanline w.hc, endi := s.nextScanline w.hi, pc := w.hc + 4, pi := w.hi + 4,
           col := 0, row := [] }

/-- Where `left` rows are still to be drawn, the walk at their headers comes to what the pseudocode gives for them. -/
def State.RowsLead (s : State) (left : Nat) : Prop :=
  ∀ w : Walk, w.phase = .rowStart → w.y + left = s.regs.height.toNat →
    s.LeadsTo (s.concluded ((specRows s left w.hc w.hi).map (w.rows ++ ·))) (left * (s.lim + 2) + 1) w

section
variable {s : State}

/-- A part that raises an error is the last. -/
theorem State.LeadsTo.of_error {w : Walk} {e : ErrorCode} {bound : Nat}
    (taken : step (s.setWalk w) = .next (s.raiseError e)) : s.LeadsTo (s.concluded (.error e)) (bound + 1) w :=
  .last taken

/-- The write phase of a walk is that of the pseudocode. -/
theorem step_setWalk_writePhase {w : Walk} (hp : w.phase = .rowStart) (hy : s.regs.height.toNat ≤ w.y) :
    step (s.setWalk w) = .next (s.concluded (.ok w.rows)) := by
  rw [step_writePhase (s := s.setWalk w) rfl hp hy, (State.unseen_setWalk w).writePhase]
  rfl

/-- The end of an open row (R149, R152). -/
theorem leadsTo_of_finished {left fuel bound : Nat} (rows : s.RowsLead left) {w : Walk} (hp : w.phase = .records)
    (hy : w.y + 1 + left = s.regs.height.toNat) (hc : s.lim ≤ w.col) (enough : left * (s.lim + 2) + 2 ≤ bound) :
    s.LeadsTo (s.concluded (specFrom s left fuel w)) bound w := by
  have noRecords : specRecords s w.endc w.endi fuel w.pc w.pi w.col = .ok [] := by
    cases fuel with
    | zero => rfl
    | succ fuel => rw [specRecords, if_pos hc]
  have rest : specFrom s left fuel w =
      (specRows s left w.finishRow.hc w.finishRow.hi).map (w.finishRow.rows ++ ·) := by
    rw [specFrom, noRecords]
    simp only [Walk.finishRow]
    change (do
      let rest ← specRows s left w.endc w.endi
      pure (w.rows ++ (w.row ++ []) :: rest)) = _
    cases specRows s left w.endc w.endi with
    | error e => rfl
    | ok rest => simp [Except.map, bind, Except.bind, pure, Except.pure]
  rw [rest]
  refine State.LeadsTo.mono (.part (step_finishRow (s := s.setWalk w) rfl hp hc) ?_) enough
  exact rows w.finishRow rfl hy

/-- A step of the walk `w` does what one round of the pseudocode's loop over records does: both raise the same error,
or both give the open row the same values and go on with the same cursors. -/
inductive State.MeetsRound (s : State) (fuel : Nat) (w : Walk) : Prop
  | fails (e : ErrorCode) : step (s.setWalk w) = .next (s.raiseError e) →
      specRecords s w.endc w.endi (fuel + 1) w.pc w.pi w.col = .error e → s.MeetsRound fuel w
  | covers (n : Half) (pc : Nat) (ps : List Pix) : n ≠ 0#16 →
      step (s.setWalk w) = .next (s.setWalk (Walk.cover { w with pc := pc, pi := w.pi + 4 } n ps)) →
      specRecords s w.endc w.endi (fuel + 1) w.pc w.pi w.col =
        (do let rest ← specRecords s w.endc w.endi fuel pc (w.pi + 4) (w.col + n.toNat)
            pure (ps ++ rest)) → s.MeetsRound fuel w

/-- The round of a record that can be fetched. -/
theorem specRecords_of_fetched {w : Walk} {fuel : Nat} (hc : w.col < s.lim) (inScanline : w.pi + 4 ≤ w.endi)
    (inside : w.pi + 4 ≤ s.params.srcSize) : specRecords s w.endc w.endi (fuel + 1) w.pc w.pi w.col =
    if s.srcAt (w.pi + 1) ≠ 0x00#8 ∧ s.srcAt (w.pi + 1) ≠ 0xFF#8 then .error .streamClass
    else if (s.recordLength w.pi).toNat = 0 then .error .streamZeroRun
    else (do
      let ps ← specColumns s w.endc w.pc w.col (s.srcAt (w.pi + 1)) (s.srcAt w.pi) (s.recordLength w.pi).toNat 0
      let rest ← specRecords s w.endc w.endi fuel
        (if s.srcAt (w.pi + 1) = 0x00#8 then w.pc + 4 * (s.recordLength w.pi).toNat else w.pc) (w.pi + 4)
        (w.col + (s.recordLength w.pi).toNat)
      pure (ps ++ rest)) := by
  rw [specRecords_succ, if_neg (Nat.not_le.2 hc), if_neg (Nat.not_lt.2 inScanline), if_neg (Nat.not_lt.2 inside)]

section
variable {w : Walk} (hp : w.phase = .records) (hc : w.col < s.lim) {fuel : Nat}
include hp hc

theorem meetsRound_of_overrun (overrun : w.endi < w.pi + 4) : s.MeetsRound fuel w := by
  refine .fails .streamIndexOverrun ?_ ?_
  · rw [step_fetchRecord (s := s.setWalk w) rfl hp hc, State.fetchRecord_eq, if_pos overrun]
    rfl
  · rw [specRecords_succ, if_neg (Nat.not_le.2 hc), if_pos overrun]

section
variable (inScanline : w.pi + 4 ≤ w.endi)
include inScanline

theorem meetsRound_of_outside (outside : s.params.srcSize < w.pi + 4) : s.MeetsRound fuel w := by
  have notInside : (s.setWalk w).inSrc w.pi 4 = false := State.inSrc_eq_false_iff.2 outside
  refine .fails .srcRange ?_ ?_
  · rw [step_fetchRecord (s := s.setWalk w) rfl hp hc, State.fetchRecord_eq,
      if_neg (Nat.not_lt.2 inScanline), notInside]
    rfl
  · rw [specRecords_succ, if_neg (Nat.not_le.2 hc), if_neg (Nat.not_lt.2 inScanline), if_pos outside]

variable (inside : w.pi + 4 ≤ s.params.srcSize)
include inside

/-- The step of a record that can be fetched runs it. -/
theorem step_setWalk_record : step (s.setWalk w) = exec (decodeRec (s.recordWord w.pi)) (s.setWalk w.fetched) :=
  step_record (s := s.setWalk w) rfl hp hc inScanline inside

theorem meetsRound_of_reserved (notSkip : s.srcAt (w.pi + 1) ≠ 0xFF#8) (notDraw : s.srcAt (w.pi + 1) ≠ 0x00#8) :
    s.MeetsRound fuel w := by
  refine .fails .streamClass ?_ ?_
  · rw [step_setWalk_record hp hc inScanline inside, decodeRec_recordWord, if_neg notSkip, if_neg notDraw]
    exact exec_reservedRec_of_row (s := s.setWalk w.fetched) (w := w.fetched) rfl hp _ _ _
  · rw [specRecords_of_fetched hc inScanline inside, if_pos ⟨notDraw, notSkip⟩]

theorem meetsRound_of_skip (skip : s.srcAt (w.pi + 1) = 0xFF#8) : s.MeetsRound fuel w := by
  have taken := step_setWalk_record hp hc inScanline inside
  have round := specRecords_of_fetched (fuel := fuel) hc inScanline inside
  have notDraw : ¬ (0xFF#8 : Byte) = 0x00#8 := by decide
  rw [decodeRec_recordWord, if_pos skip,
    exec_skipRec_of_row (s := s.setWalk w.fetched) (w := w.fetched) rfl hp] at taken
  rw [skip, if_neg (by simp), specColumns_skip, State.visibleLeft_whole, if_neg notDraw] at round
  by_cases zero : s.recordLength w.pi = 0#16
  · rw [if_pos zero] at taken
    rw [zero] at round
    exact .fails .streamZeroRun taken round
  · rw [if_neg zero] at taken
    rw [if_neg (toNat_ne_zero zero)] at round
    exact .covers (s.recordLength w.pi) w.pc _ zero taken round

theorem meetsRound_of_draw (draw : s.srcAt (w.pi + 1) = 0x00#8) : s.MeetsRound fuel w := by
  have taken := step_setWalk_record hp hc inScanline inside
  have round := specRecords_of_fetched (fuel := fuel) hc inScanline inside
  have notSkip : ¬ (0x00#8 : Byte) = 0xFF#8 := by decide
  rw [decodeRec_recordWord, draw, if_neg notSkip, if_pos rfl] at taken
  rw [draw, if_neg (by simp), specColumns_draw s w, State.visibleLeft_whole, Nat.zero_max, if_pos rfl] at round
  by_cases zero : s.recordLength w.pi = 0#16
  · rw [zero] at taken round
    have zeroRun := exec_drawRec_zero (s := s.setWalk w.fetched) (w := w.fetched) rfl hp (s.srcAt w.pi)
    exact .fails .streamZeroRun (taken.trans zeroRun) round
  · rw [if_neg (toNat_ne_zero zero)] at round
    have pixels := s.drawnPixels_fetched w (s.srcAt w.pi) (s.visibleCount w (s.recordLength w.pi)) (s.visibleFrom w)
    cases drawn : s.drawnPixels w (s.srcAt w.pi) (s.visibleCount w (s.recordLength w.pi)) (s.visibleFrom w) with
    | error e =>
      rw [drawn] at round pixels
      exact .fails e (taken.trans (exec_drawRec_of_error (s := s.setWalk w.fetched) rfl hp _ _ zero pixels)) round
    | ok ps =>
      rw [drawn] at round pixels
      exact .covers (s.recordLength w.pi) (w.pc + 4 * (s.recordLength w.pi).toNat) ps zero
        (taken.trans (exec_drawRec_of_ok (s := s.setWalk w.fetched) rfl hp _ _ zero pixels)) round

end

theorem meetsRound : s.MeetsRound fuel w := by
  rcases Nat.lt_or_ge w.endi (w.pi + 4) with overrun | inScanline
  · exact meetsRound_of_overrun hp hc overrun
  · rcases Nat.lt_or_ge s.params.srcSize (w.pi + 4) with outside | inside
    · exact meetsRound_of_outside hp hc inScanline outside
    · by_cases skip : s.srcAt (w.pi + 1) = 0xFF#8
      · exact meetsRound_of_skip hp hc inScanline inside skip
      · by_cases draw : s.srcAt (w.pi + 1) = 0x00#8
        · exact meetsRound_of_draw hp hc inScanline inside draw
        · exact meetsRound_of_reserved hp hc inScanline inside skip draw

end

/-- The records of an open row, one after another (R147 to R149), and the rows after it. -/
theorem leadsTo_of_records {left : Nat} (rows : s.RowsLead left) {fuel : Nat} {w : Walk} (hp : w.phase = .records)
    (hy : w.y + 1 + left = s.regs.height.toNat) (enough : s.lim ≤ w.col + fuel) :
    s.LeadsTo (s.concluded (specFrom s left fuel w)) (fuel + (left * (s.lim + 2) + 2)) w := by
  induction fuel generalizing w with
  | zero => exact leadsTo_of_finished rows hp hy enough (by omega)
  | succ fuel ih =>
    rcases Nat.lt_or_ge w.col s.lim with hc | hc
    · cases meetsRound (fuel := fuel) hp hc with
      | fails e taken fails =>
        rw [specFrom_of_error fails]
        exact .mono (.of_error (bound := 0) taken) (by omega)
      | covers n pc ps hn taken covers =>
        have longer : 0 < n.toNat := Nat.pos_of_ne_zero (toNat_ne_zero hn)
        rw [specFrom_cover covers]
        refine .mono (.part taken (ih (w := Walk.cover { w with pc := pc, pi := w.pi + 4 } n ps) hp hy ?_)) (by omega)
        simp only [Walk.cover]
        omega
    · exact leadsTo_of_finished rows hp hy hc (by omega)

/-- Where both headers of the walk's row lie in SRC (R145, R146). -/
theorem headersInSrc_or_outside (s : State) (w : Walk) :
    (s.headersInSrc w = true ∧ ¬ s.params.srcSize < w.hc + 4 ∧ ¬ s.params.srcSize < w.hi + 4) ∨
    (s.headersInSrc w = false ∧ (s.params.srcSize < w.hc + 4 ∨ s.params.srcSize < w.hi + 4)) := by
  cases headers : s.headersInSrc w with
  | true =>
    obtain ⟨colour, index⟩ := State.headersInSrc_iff.1 headers
    exact .inl ⟨rfl, Nat.not_lt.2 colour, Nat.not_lt.2 index⟩
  | false =>
    refine .inr ⟨rfl, ?_⟩
    rw [← Bool.not_eq_true, State.headersInSrc_iff] at headers
    omega

/-- A drawn row of the pseudocode: its headers, its records, and the rows after it (R146). -/
theorem specRows_of_headers {left : Nat} {w : Walk} (colour : ¬ s.params.srcSize < w.hc + 4)
    (index : ¬ s.params.srcSize < w.hi + 4) :
    (specRows s (left + 1) w.hc w.hi).map (w.rows ++ ·) = specFrom s left s.lim (s.openedRow w) := by
  rw [specRows, if_neg colour, if_neg index, specFrom]
  simp only [State.openedRow, State.nextScanline]
  cases specRecords s (w.hc + 4 + s.srcRead w.hc 4) (w.hi + 4 + s.srcRead w.hi 4) s.lim (w.hc + 4) (w.hi + 4) 0 with
  | error e => rfl
  | ok row => cases specRows s left (w.hc + 4 + s.srcRead w.hc 4) (w.hi + 4 + s.srcRead w.hi 4) <;> rfl

theorem specRows_of_outside {left hc hi : Nat} (outside : s.params.srcSize < hc + 4 ∨ s.params.srcSize < hi + 4) :
    specRows s (left + 1) hc hi = .error .srcRange := by
  rw [specRows]
  rcases outside with colour | index
  · rw [if_pos colour]
  · rw [if_pos index, ite_self]

theorem step_setWalk_startRow {w : Walk} (hp : w.phase = .rowStart) (hy : w.y < s.regs.height.toNat) :
    step (s.setWalk w) = .next (if s.headersInSrc w then s.setWalk (s.openedRow w) else s.raiseError .srcRange) :=
  step_startRow (s := s.setWalk w) rfl hp hy

/-- One after another, the rows that are left come to what the pseudocode gives for them (R146, R152). -/
theorem rowsLead (s : State) (left : Nat) : s.RowsLead left := by
  induction left with
  | zero =>
    intro w hp hy
    have none : (specRows s 0 w.hc w.hi).map (w.rows ++ ·) = .ok w.rows := congrArg Except.ok (List.append_nil _)
    rw [none]
    exact .last (step_setWalk_writePhase hp hy.ge)
  | succ left rows =>
    intro w hp hy
    have taken := step_setWalk_startRow hp (by omega : w.y < s.regs.height.toNat)
    rcases headersInSrc_or_outside s w with ⟨headers, colour, index⟩ | ⟨headers, outside⟩
    · rw [headers, if_pos rfl] at taken
      rw [specRows_of_headers colour index]
      have opened : s.LeadsTo _ _ (s.openedRow w) :=
        leadsTo_of_records rows rfl (by change w.y + 1 + left = _; omega) (Nat.le_add_left s.lim 0)
      exact .mono (.part taken opened) (by rw [Nat.succ_mul]; omega)
    · rw [headers] at taken
      rw [specRows_of_outside outside]
      exact .of_error taken

/-! ## The skipped rows (R145) -/

/-- The walk past one skipped row. -/
def State.skippedRow (s : State) (w : Walk) (left : Nat) : Walk :=
  { w with phase := .skipRows left, hc := s.nextScanline w.hc, hi := s.nextScanline w.hi }

theorem step_setWalk_skipRow {w : Walk} {left : Nat} (hp : w.phase = .skipRows (left + 1)) :
    step (s.setWalk w) =
      .next (if s.headersInSrc w then s.setWalk (s.skippedRow w left) else s.raiseError .srcRange) :=
  step_skipRow (s := s.setWalk w) rfl hp

theorem step_setWalk_skipped {w : Walk} (hp : w.phase = .skipRows 0) :
    step (s.setWalk w) = .next (s.setWalk { w with phase := .rowStart }) := by
  rw [step_of_walk (s := s.setWalk w) rfl, State.continueWalk, hp]
  rfl

/-- The skipped rows, one after another, and the drawn rows after them. -/
theorem leadsTo_of_skipRows {left : Nat} {w : Walk} (hp : w.phase = .skipRows left) (hy : w.y = 0)
    (hrows : w.rows = []) :
    s.LeadsTo (s.concluded (specSkip s left w.hc w.hi)) (left + (s.regs.height.toNat * (s.lim + 2) + 2)) w := by
  induction left generalizing w with
  | zero =>
    have rows := rowsLead s s.regs.height.toNat { w with phase := .rowStart } rfl (by change w.y + _ = _; omega)
    have whole : (specRows s s.regs.height.toNat w.hc w.hi).map (w.rows ++ ·) = specSkip s 0 w.hc w.hi := by
      rw [hrows]
      cases h : specRows s s.regs.height.toNat w.hc w.hi <;> simp [specSkip, h, Except.map]
    rw [← whole]
    exact .mono (.part (step_setWalk_skipped hp) rows) (by omega)
  | succ left ih =>
    have taken := step_setWalk_skipRow hp (s := s)
    rcases headersInSrc_or_outside s w with ⟨headers, colour, index⟩ | ⟨headers, outside⟩
    · rw [headers, if_pos rfl] at taken
      rw [specSkip, if_neg colour, if_neg index]
      exact .mono (.part taken (ih (w := s.skippedRow w left) rfl hy hrows)) (by omega)
    · have failed : specSkip s (left + 1) w.hc w.hi = .error .srcRange := by
        rw [specSkip]
        rcases outside with colour | index
        · rw [if_pos colour]
        · rw [if_pos index, ite_self]
      rw [headers] at taken
      rw [failed]
      exact .mono (.of_error (bound := 0) taken) (by omega)

end

/-! ## The begin of the commit step (R143, R144) -/

theorem specValidate_eq (s : State) : specValidate s =
    if s.params.srcSize < s.tableEntry + 8 then .error .srcRange
    else specSkip s s.regs.skipTop.toNat s.startWalk.hc s.startWalk.hi := rfl

/-- The begin of the commit step ends it as the pseudocode does, or starts a walk where phase 1 of it begins. -/
theorem State.beginCommit_meets_drawSpec (s : State) : s.beginCommit = s.drawSpec ∨
    (s.beginCommit = s.setWalk s.startWalk ∧
      s.drawSpec = s.concluded (specSkip s s.regs.skipTop.toNat s.startWalk.hc s.startWalk.hi)) := by
  unfold State.drawSpec
  dsimp only
  by_cases zoom : s.params.nzoom ≤ s.latch.zoom.toNat
  · rw [if_pos zoom]
    exact .inl (State.beginCommit_of_zoom zoom)
  rw [if_neg zoom]
  have zoom := Nat.not_le.1 zoom
  by_cases miss : s.latch.mode.usesRemap = true ∧ s.latch.remapEn = false
  · rw [if_pos miss]
    exact .inl (State.beginCommit_of_no_table zoom miss.1 miss.2)
  rw [if_neg miss]
  have table : s.latch.mode.usesRemap = true → s.latch.remapEn = true := by simpa using miss
  by_cases empty : s.regs.width.toNat = 0 ∨ s.regs.height.toNat = 0
  · rw [if_pos empty]
    exact .inl (State.beginCommit_of_emptyClip zoom table (State.emptyClip_iff.2 empty))
  rw [if_neg empty]
  have clip : s.emptyClip = false := Bool.eq_false_iff.2 (empty ∘ State.emptyClip_iff.1)
  cases legal : s.dstLegal with
  | false =>
    left
    rw [State.beginCommit_of_illegal_dst zoom table clip legal]
    rcases State.dstLegal_eq_false_iff.1 legal with overlap | outside
    · rw [if_pos overlap]
    · rw [if_pos outside, ite_self]
  | true =>
    obtain ⟨apart, inside⟩ := not_or.1 (mt (State.dstLegal_eq_false_iff (s := s)).2 (by simp [legal]))
    rw [if_neg apart, if_neg inside]
    by_cases tableOutside : s.latch.mode.usesRemap = true ∧ s.params.srcSize < s.regs.remapBase.toNat + 256
    · rw [if_pos tableOutside]
      exact .inl (State.beginCommit_of_table_outside zoom table clip legal tableOutside.1
        (State.inSrc_eq_false_iff.2 tableOutside.2))
    rw [if_neg tableOutside, specValidate_eq]
    have checks : s.checksHold = true := s.checksHold_iff.2 ⟨zoom, clip, legal, fun uses =>
      ⟨table uses, State.inSrc_iff.2 (Nat.not_lt.1 fun outside => tableOutside ⟨uses, outside⟩)⟩⟩
    rw [State.beginCommit_of_checksHold checks]
    by_cases entry : s.params.srcSize < s.tableEntry + 8
    · rw [if_pos entry, State.inSrc_eq_false_iff.2 entry]
      exact .inl rfl
    · rw [if_neg entry, State.inSrc_iff.2 (Nat.not_lt.1 entry)]
      exact .inr ⟨rfl, rfl⟩

/-- Settles O29: the begin ends the step as the pseudocode does, or starts a walk whose parts follow the pseudocode's
loops (`leadsTo_of_skipRows`). -/
theorem commitStepMeetsPseudocode : Obligations.CommitStepMeetsPseudocode := by
  intro s busy hw
  have begins := step_facing_engine hw busy
  rcases s.beginCommit_meets_drawSpec with ended | ⟨started, result⟩
  · rw [ended] at begins
    refine ⟨1, Nat.one_pos, ?_, run_succ_of_step begins 0, fun k _ _ => by omega⟩
    unfold State.commitBound
    omega
  · rw [started] at begins
    obtain ⟨n, _, upper, reached, between⟩ := (leadsTo_of_skipRows (s := s) (w := s.startWalk) rfl rfl rfl).run
    refine ⟨n + 1, n.succ_pos, ?_, ?_, fun k first last => ?_⟩
    · unfold State.commitBound
      omega
    · rw [run_succ_of_step begins, reached, result]
    · obtain ⟨k, rfl⟩ := Nat.exists_eq_add_of_le' first
      obtain ⟨w, passed⟩ := between k (by omega)
      exact ⟨w, (run_succ_of_step begins k).trans passed⟩

end Sys2Proof.Machine
end
